-- ==== Sys2Proof/Word.lean ====
section
/-! DEFINITION. The unsigned integers of 00_scope.md section 5.1. Nothing in the block is signed. -/

namespace Sys2Proof

/-- `u8`: a byte of the buffer, an index of the CRC table. -/
abbrev Byte := BitVec 8

/-- `u16`: a tag, a CRC value, a table entry. -/
abbrev U16 := BitVec 16

/-- `u32`: a length field, a package identifier. -/
abbrev U32 := BitVec 32

/-- The shape of the CRC table `TBL` (R22): 256 entries of 16 bits, indexed by a `u8`. -/
abbrev Table := Vector U16 256

end Sys2Proof
end

