-- ==== Sys2Proof/Config.lean ====
section
/-! DEFINITION. What an implementation fixes (00_scope.md section 4), and the values the spec leaves
unspecified, as constants without a body. -/

namespace Sys2Proof

/-- The bit order of the CRC (R105, 92 D1). -/
inductive CrcVariant where
  | lsbFirst
  | msbFirst
  deriving DecidableEq, Repr

/-- What `CRC_CHECK` compares the computed CRC with (R33): an input of every `PARSE`. -/
inductive CrcMode where
  | const
  | tx
  deriving DecidableEq, Repr, Inhabited

/-- The bit that `MODE` holds: `CONST` = 0, `TX` = 1 (10_state.md section 1). -/
def CrcMode.code : CrcMode → BitVec 1
  | .const => 0
  | .tx => 1

namespace Config

/-- `CRC_VARIANT` (R105): the decided variant of this hardware. DEDUCED: log 8. -/
def crcVariant : CrcVariant := .lsbFirst

/-- `MAGIC` (R70): "SOF\0" read big-endian. -/
def magic : U32 := 0x534F4600

/-- `HDR_LEN` (90 C1, R58): 4 magic bytes and 12 reserved bytes. -/
def hdrLen : Nat := 16

/-- The number of bytes of the magic (R70). -/
def magicLen : Nat := 4

/-- `REC_HDR_LEN` (R72): 2 tag bytes and 4 length bytes. -/
def recHdrLen : Nat := 6

/-- `POLY` (R90), in its normal, MSB-first form. -/
def poly : U16 := 0x1021

/-- `POLY_REFL` (R105): `POLY` with its 16 bits reversed. -/
def polyRefl : U16 := 0x8408

/-- `SEED` (R101): what `CRC_CHECK` starts the accumulator from. -/
def seed : U16 := 0xFFFF

/-- `CHECK_CONST` (R101): what the complemented CRC is compared with in `CONST` mode. -/
def checkConst : U16 := 0x0F47

/-- `CRC16_PAYLOAD` (R78): the nominal length of a CRC16 record. -/
def crc16Payload : Nat := 2

/-- `PACKAGE_PAYLOAD` (R79): the nominal length of a PACKAGE record. -/
def packagePayload : Nat := 4

/-- The recognised tags (R76). -/
def tagBuildtool : U16 := 1
def tagChiptype : U16 := 2
def tagName : U16 := 3
def tagCrc16 : U16 := 8
def tagBitstream : U16 := 17
def tagPackage : U16 := 18
def tagRamM4k : U16 := 21

/-- The closed set of recognised tags (R4, R76). -/
def recognisedTags : List U16 :=
  [tagBuildtool, tagChiptype, tagName, tagCrc16, tagBitstream, tagPackage, tagRamM4k]

/-- FREE VALUE: what `ACC` holds after the `RESET` operation, "unspecified" (R40, R170); the
argument counts the resets. Log 10. -/
opaque freeAcc : Nat → U16

/-- FREE VALUE: what `MODE` holds after the `RESET` operation, "unspecified" (R40, R170). Log 10. -/
opaque freeMode : Nat → CrcMode

/-- FREE VALUE: what entry `i` of `TBL` holds after the `RESET` operation, "unspecified" (R40,
R170): reset count first, then `i`. Log 10. -/
opaque freeTbl : Nat → Nat → U16

end Config

end Sys2Proof
end

