-- ==== Sys2Proof/Syntax.lean ====
section
/-! DEFINITION. The instructions: one constructor per row of spec/opcode_table.json. -/

namespace Sys2Proof

/-- A row of the opcode table with its operands. A record carries its length field `n` (R72); its
payload stays in the buffer at `CUR + 6`. The host operations and `CRC_CHECK` have no bit encoding
in the source (R10, 30_encoding.md section 8). -/
inductive Instr where
  /-- The header pseudo-instruction (R70, R112 to R114). Its 12 reserved bytes are not decoded (R71). -/
  | sof
  /-- Tag 1 (R130). -/
  | buildtool (n : U32)
  /-- Tag 2 (R131). -/
  | chiptype (n : U32)
  /-- Tag 3 (R132). -/
  | name (n : U32)
  /-- Tag 8 (R133). -/
  | crc16 (n : U32)
  /-- Tag 17 (R134). -/
  | bitstream (n : U32)
  /-- Tag 18 (R135). -/
  | package (n : U32)
  /-- Tag 21 (R136). -/
  | ramM4k (n : U32)
  /-- Every other tag (R137). -/
  | skip (tag : U16) (n : U32)
  /-- Host operation (R170). -/
  | reset
  /-- Host operation (R93). -/
  | tblInit
  /-- Host operation (R95). -/
  | crcSeed (s : U16)
  /-- Host operation (R98). -/
  | crcByte (b : Byte)
  /-- Host operation (R99). -/
  | crcCompute (seed : U16) (data : List Byte)
  /-- Host operation (R110); `LEN` is the length of `buf` (R175). -/
  | parse (buf : List Byte) (mode : CrcMode)
  /-- Internal step of the CRC16 record (R101). -/
  | crcCheck (tx : U16)
  deriving DecidableEq, Repr

/-- The length field of a record; nothing for the header and the operations. -/
def Instr.recordLen? : Instr → Option U32
  | .buildtool n | .chiptype n | .name n | .crc16 n | .bitstream n | .package n | .ramM4k n
  | .skip _ n => some n
  | .sof | .reset | .tblInit | .crcSeed _ | .crcByte _ | .crcCompute _ _ | .parse _ _
  | .crcCheck _ => none

end Sys2Proof
end

