-- ==== Sys2Proof/WellFormed.lean ====
section
/-! DEFINITION. Which instruction terms stand for something the encoding has. -/

namespace Sys2Proof

/-- A SKIP record has a tag outside the recognised set (R81, R137); every other operand value is
legal (R75, R80, R95, R99, R110). -/
def Instr.wellFormed : Instr → Bool
  | .skip tag _ => !Config.recognisedTags.contains tag
  | .sof | .buildtool _ | .chiptype _ | .name _ | .crc16 _ | .bitstream _ | .package _
  | .ramM4k _ | .reset | .tblInit | .crcSeed _ | .crcByte _ | .crcCompute _ _ | .parse _ _
  | .crcCheck _ => true

end Sys2Proof
end

