-- ==== Sys2Proof/Decode.lean ====
section
/-! DEFINITION. Byte-wise decoding of the stream (30_encoding.md) and, after it, the encoder. -/

namespace Sys2Proof

/-! ## Decode primitives (R5 to R8) -/

/-- `LE16` (R5): the byte at the lower offset is the less significant. -/
def le16 (b0 b1 : Byte) : U16 := b1 ++ b0

/-- `LE32` (R6). -/
def le32 (b0 b1 b2 b3 : Byte) : U32 := b3 ++ b2 ++ b1 ++ b0

/-- `BE32` (R7), used for the magic and for nothing else. -/
def be32 (b0 b1 b2 b3 : Byte) : U32 := b0 ++ b1 ++ b2 ++ b3

/-! ## Decoder -/

/-- The two formats of the stream (R70, R72): the header once at offset 0, then records. -/
inductive Format where
  | hdr
  | tlv
  deriving DecidableEq, Repr

/-- Why bytes stand for no instruction (R82). -/
inductive DecodeError where
  /-- The first four bytes are absent or are not the magic (R112). -/
  | badMagic
  /-- A good magic and fewer than 16 bytes (R114). -/
  | shortHeader
  /-- Fewer than six bytes for a tag and a length (R116). -/
  | shortRecord
  deriving DecidableEq, Repr

/-- Format `HDR` (R70). The 12 reserved bytes must exist and may hold anything (R71). -/
def decodeHeader : List Byte → Except DecodeError Instr
  | b0 :: b1 :: b2 :: b3 :: rest =>
    if be32 b0 b1 b2 b3 = Config.magic then
      if rest.length + Config.magicLen < Config.hdrLen then .error .shortHeader else .ok .sof
    else .error .badMagic
  | _ => .error .badMagic

/-- The tag map (R76, R77, R119): the whole 16-bit tag is compared, and SKIP is tried last. -/
def recordOf (tag : U16) (n : U32) : Instr :=
  if tag = Config.tagBuildtool then .buildtool n
  else if tag = Config.tagChiptype then .chiptype n
  else if tag = Config.tagName then .name n
  else if tag = Config.tagCrc16 then .crc16 n
  else if tag = Config.tagBitstream then .bitstream n
  else if tag = Config.tagPackage then .package n
  else if tag = Config.tagRamM4k then .ramM4k n
  else .skip tag n

/-- Format `TLV` (R72, R117): tag and length from the first six bytes. -/
def decodeRecord : List Byte → Except DecodeError Instr
  | t0 :: t1 :: l0 :: l1 :: l2 :: l3 :: _ => .ok (recordOf (le16 t0 t1) (le32 l0 l1 l2 l3))
  | _ => .error .shortRecord

/-- The decoder of 30_encoding.md section 8: total on any bytes. -/
def decode : Format → List Byte → Except DecodeError Instr
  | .hdr, bs => decodeHeader bs
  | .tlv, bs => decodeRecord bs

/-! ## Encoder -/

/-- A `u16` as two bytes, the less significant first (R54). -/
def bytesLE16 (v : U16) : List Byte := [v.extractLsb' 0 8, v.extractLsb' 8 8]

/-- A `u32` as four bytes, the least significant first (R54). -/
def bytesLE32 (v : U32) : List Byte :=
  [v.extractLsb' 0 8, v.extractLsb' 8 8, v.extractLsb' 16 8, v.extractLsb' 24 8]

/-- A `u32` as four bytes, the most significant first: the magic's order (R54). -/
def bytesBE32 (v : U32) : List Byte :=
  [v.extractLsb' 24 8, v.extractLsb' 16 8, v.extractLsb' 8 8, v.extractLsb' 0 8]

/-- The tag and length bytes of a record (R72). -/
def encodeRecordHeader (tag : U16) (n : U32) : List Byte := bytesLE16 tag ++ bytesLE32 n

/-- The 16 header bytes with the given reserved bytes (R70). -/
def encodeHeader (reserved : List Byte) : List Byte := bytesBE32 Config.magic ++ reserved

/-- The tag of a record (R76); nothing for the header and the operations. -/
def Instr.tag? : Instr → Option U16
  | .buildtool _ => some Config.tagBuildtool
  | .chiptype _ => some Config.tagChiptype
  | .name _ => some Config.tagName
  | .crc16 _ => some Config.tagCrc16
  | .bitstream _ => some Config.tagBitstream
  | .package _ => some Config.tagPackage
  | .ramM4k _ => some Config.tagRamM4k
  | .skip tag _ => some tag
  | .sof | .reset | .tblInit | .crcSeed _ | .crcByte _ | .crcCompute _ _ | .parse _ _
  | .crcCheck _ => none

/-- The format an instruction is encoded in; none for host operations and `CRC_CHECK`. -/
def Instr.format? : Instr → Option Format
  | .sof => some .hdr
  | .buildtool _ | .chiptype _ | .name _ | .crc16 _ | .bitstream _ | .package _ | .ramM4k _
  | .skip _ _ => some .tlv
  | .reset | .tblInit | .crcSeed _ | .crcByte _ | .crcCompute _ _ | .parse _ _
  | .crcCheck _ => none

/-- The bytes of a record's tag and length (R72); its payload is data of the buffer. -/
def encodeRecord (i : Instr) : Option (List Byte) :=
  match i.tag?, i.recordLen? with
  | some tag, some n => some (encodeRecordHeader tag n)
  | _, _ => none

/-- The bytes of an instruction: the header with zero reserved bytes (R84), or a record's tag and
length. None where the source has no encoding (30_encoding.md section 8). -/
def encode (i : Instr) : Option (List Byte) :=
  match i.format? with
  | some .hdr => some (encodeHeader (List.replicate 12 0))
  | some .tlv => encodeRecord i
  | none => none

/-! ## Words of the opcode table -/

/-- Bits `8 * k + 7` to `8 * k` of a number. -/
def byteOfNat (w k : Nat) : Byte := BitVec.ofNat 8 (w >>> (8 * k))

/-- The rows of format HDR match a big-endian 32-bit word (30_encoding.md section 8); the table
gives the row 32 bits, or 128 with the reserved bytes. Every other encoded row is a record. -/
def formatOfWidth (nbits : Nat) : Format := if nbits = 32 ∨ nbits = 128 then .hdr else .tlv

/-- The bytes of a header whose 32-bit words are numbered from the first word: each word
big-endian, the first at the lowest offset. -/
def layoutHeader (w : Nat) : List Byte :=
  [3, 2, 1, 0, 7, 6, 5, 4, 11, 10, 9, 8, 15, 14, 13, 12].map (byteOfNat w)

/-- The bytes of a record numbered from its first byte: tag, length and as many payload bytes as
the length says. -/
def layoutRecord (w : Nat) : List Byte :=
  [0, 1, 2, 3, 4, 5].map (byteOfNat w) ++
    (List.range (w >>> 16 % 2 ^ 32)).map fun k => byteOfNat w (Config.recHdrLen + k)

/-- An opcode-table word of `nbits` bits as the buffer stores it; the bits above are 0. Log 18. -/
def layoutWord (nbits w : Nat) : List Byte :=
  match formatOfWidth nbits with
  | .hdr => layoutHeader (w % 2 ^ nbits)
  | .tlv => layoutRecord (w % 2 ^ nbits)

/-- The instruction the decoder reads from an opcode-table word. -/
def decodeTableWord (nbits w : Nat) : Option Instr :=
  (decode (formatOfWidth nbits) (layoutWord nbits w)).toOption

end Sys2Proof
end

