-- ==== Sys2Proof/Machine/State.lean ====
section
/-! DEFINITION. The state of one block instance (R20), the inputs one deterministic step must see
(R21), and the reasons a step can stop. -/

namespace Sys2Proof.Machine

/-- `STATUS` (R34): five values; codes 5 to 7 do not exist. -/
inductive Status where
  | idle
  | busy
  | ok
  | errFormat
  | errTrunc
  deriving DecidableEq, Repr

/-- The code of `STATUS` (R34). -/
def Status.code : Status → BitVec 3
  | .idle => 0
  | .busy => 1
  | .ok => 2
  | .errFormat => 3
  | .errTrunc => 4

/-- A slice of the buffer (R28, R29): the registers `X_OFF`, `X_LEN`, `X_SEEN`. -/
structure Slice where
  /-- `X_OFF`, `ADDR_W` bits, a natural (R27; log 7). -/
  off : Nat
  /-- `X_LEN`, 32 bits, a copy of the record's length field (R27). -/
  len : U32
  /-- `X_SEEN` (R31). -/
  seen : Bool
  deriving DecidableEq, Repr

/-- An absent slice: its registers read 0 (R26). -/
def Slice.absent : Slice := ⟨0, 0, false⟩

/-- The result registers and flags: the ParseResult (10_state.md sections 3 and 4). -/
structure Result where
  /-- `BS_OFF`, `BS_LEN`, `BS_SEEN` (R28). -/
  bs : Slice
  /-- `RAM_OFF`, `RAM_LEN`, `RAM_SEEN` (R28). -/
  ram : Slice
  /-- `BT_OFF`, `BT_LEN`, `BT_SEEN` (R29). -/
  bt : Slice
  /-- `CT_OFF`, `CT_LEN`, `CT_SEEN` (R29). -/
  ct : Slice
  /-- `NM_OFF`, `NM_LEN`, `NM_SEEN` (R29). -/
  nm : Slice
  /-- `PKG_ID` (R30). -/
  pkgId : U32
  /-- `PKG_SEEN` (R30). -/
  pkgSeen : Bool
  /-- `CRC_SEEN` (R32). -/
  crcSeen : Bool
  /-- `CRC_VALID` (R32). -/
  crcValid : Bool
  /-- `CRC_COMPUTED` (R32): the complemented CRC, the number that is compared. -/
  crcComputed : U16
  /-- `CRC_TX` (R32): the value the CRC16 record carries. -/
  crcTx : U16
  deriving DecidableEq, Repr

/-- The empty result (R26). -/
def Result.empty : Result where
  bs := .absent
  ram := .absent
  bt := .absent
  ct := .absent
  nm := .absent
  pkgId := 0
  pkgSeen := false
  crcSeen := false
  crcValid := false
  crcComputed := 0
  crcTx := 0

/-- `BUF` (R50): (offset, byte) cells. In the canonical form (`Memory.wf`) the offsets are 0, 1, …,
`LEN` - 1 in order; an offset that is not listed does not exist. -/
abbrev Memory := List Host.Cell

/-- The six operations the host issues (R10), with their operands. -/
inductive HostOp where
  | reset
  | tblInit
  | crcSeed (s : U16)
  | crcByte (b : Byte)
  | crcCompute (seed : U16) (data : List Byte)
  | parse (buf : List Byte) (mode : CrcMode)
  deriving DecidableEq, Repr

/-- The row of the opcode table that a host operation is. -/
def HostOp.instr : HostOp → Instr
  | .reset => .reset
  | .tblInit => .tblInit
  | .crcSeed s => .crcSeed s
  | .crcByte b => .crcByte b
  | .crcCompute seed data => .crcCompute seed data
  | .parse buf mode => .parse buf mode

/-- The block's registers (R20), then the inputs and the counter that the model adds. -/
structure State where
  /-- `TBL[0..255]` (R22). -/
  tbl : Table
  /-- `TBL_VALID` (R23). -/
  tblValid : Bool
  /-- `ACC` (R24): the raw running CRC. -/
  acc : U16
  /-- `MODE` (R33). -/
  mode : CrcMode
  /-- `STATUS` (R34). -/
  status : Status
  /-- `ERR_OFF` (R35), `ADDR_W` bits, a natural (log 7). -/
  errOff : Nat
  /-- `CUR` (R37), the program counter, `ADDR_W` bits, a natural (log 7). -/
  cur : Nat
  /-- The result registers and flags (R25, R31). -/
  res : Result
  /-- The model's own: `BUF` as lent to the current or last `PARSE` (R21, R50; log 4). -/
  buf : Memory
  /-- The model's own: the operations the host will issue, oldest first (R10; log 2). -/
  pending : List HostOp
  /-- The model's own: how many `RESET` operations have drawn free values (log 10). -/
  fresh : Nat
  deriving DecidableEq, Repr

/-- What the machine stops on. -/
inductive Fault where
  /-- A `MemRead(addr, n)` with `addr + n > LEN`, which the spec gives no meaning (R52). Raised by a
  fetch or by the payload read of CRC16 and PACKAGE. Safe: no step issues one (R182). -/
  | bufferReadPastEnd (addr n : Nat)
  deriving DecidableEq, Repr

/-- What the machine has no meaning for. -/
inductive Refusal where
  /-- An instruction without a meaning: raised by no arm of `exec`. Safe. -/
  | notModelled (mnemonic : String)
  deriving DecidableEq, Repr

/-- The machine right after reset (R40), with no buffer lent and no operation pending. `TBL`, `ACC`
and `MODE` are unspecified there: their values are DESIGN CHOICE, unsafe, log 9. -/
def State.reset : State where
  tbl := Vector.replicate 256 0
  tblValid := false
  acc := 0
  mode := .const
  status := .idle
  errOff := 0
  cur := 0
  res := .empty
  buf := []
  pending := []
  fresh := 0

end Sys2Proof.Machine
end

