-- ==== Sys2Proof/Machine/Crc.lean ====
section
/-! DEFINITION. The CRC engine as functions of a table and a variant (40_crc_engine.md). The loops
and the shape of the update are supplied by the spec from general knowledge: log 19. -/

namespace Sys2Proof.Machine

/-- One step of the reflected loop (R91, R102). -/
def lsbStep (c : U16) : U16 :=
  if c.getLsbD 0 then (c >>> 1) ^^^ Config.polyRefl else c >>> 1

/-- One step of the MSB-first loop (R92, R102). -/
def msbStep (c : U16) : U16 :=
  if c.getLsbD 15 then (c <<< 1) ^^^ Config.poly else c <<< 1

/-- The bit-serial step of a variant. -/
def crcStep : CrcVariant → U16 → U16
  | .lsbFirst => lsbStep
  | .msbFirst => msbStep

/-- A step applied 8 times: once for each bit of a byte. -/
def eightTimes (f : U16 → U16) (c : U16) : U16 := f (f (f (f (f (f (f (f c)))))))

/-- Where a data byte enters the 16-bit register (R102). -/
def alignByte : CrcVariant → Byte → U16
  | .lsbFirst, b => b.setWidth 16
  | .msbFirst, b => b.setWidth 16 <<< 8

/-- `tl(i)` (R91) and `tm(i)` (R92). -/
def tblEntry (v : CrcVariant) (i : Byte) : U16 := eightTimes (crcStep v) (alignByte v i)

/-- A table from its entries in increasing index. -/
def tableOf (f : Nat → U16) : Table := ⟨⟨(List.range' 0 256).map f⟩, by simp⟩

/-- The table once built (R22, R93). -/
def builtTbl (v : CrcVariant) : Table := tableOf fun i => tblEntry v (BitVec.ofNat 8 i)

/-- `TBL[i]`. -/
def tblRead (t : Table) (i : Byte) : U16 := t[i.toNat]'i.isLt

/-- The table index: a byte of the accumulator exclusive-or the data byte (R96, R97). -/
def tblIndex : CrcVariant → U16 → Byte → Byte
  | .lsbFirst, a, b => a.extractLsb' 0 8 ^^^ b
  | .msbFirst, a, b => a.extractLsb' 8 8 ^^^ b

/-- The accumulator shifted by one byte (R96, R97). -/
def shiftByte : CrcVariant → U16 → U16
  | .lsbFirst, a => a >>> 8
  | .msbFirst, a => a <<< 8

/-- `upd(a, b)` (R96, R97). -/
def upd (v : CrcVariant) (t : Table) (a : U16) (b : Byte) : U16 :=
  shiftByte v a ^^^ tblRead t (tblIndex v a b)

/-- `crc(s, d)` (R99): the fold of `upd` in increasing order. -/
def crc (v : CrcVariant) (t : Table) (s : U16) (data : List Byte) : U16 := data.foldl (upd v t) s

end Sys2Proof.Machine
end

