-- ==== Sys2Proof/Machine/Flags.lean ====
section
/-! DEFINITION. The flags (R31): the presence flags and the two CRC flags. There are no arithmetic
condition codes. -/

namespace Sys2Proof.Machine

/-- A slice that a record has written: `X_SEEN` = 1 (R28, R29), zero length included. -/
def Slice.present (off : Nat) (len : U32) : Slice := ⟨off, len, true⟩

/-- `CRC_VALID` (R101, R33): the complemented CRC `v` against the constant or the transmitted
value. -/
def crcVerdict (mode : CrcMode) (v tx : U16) : Bool :=
  match mode with
  | .const => v == Config.checkConst
  | .tx => v == tx

end Sys2Proof.Machine
end

