-- ==== Sys2Proof/Machine/Operands.lean ====
section
/-! DEFINITION. Reading `BUF` (20_memory.md) and the operands of a record. -/

namespace Sys2Proof.Machine

/-! ## The buffer -/

/-- The canonical form: the listed offsets are 0, 1, …, `LEN` - 1 in order (R50), so `LEN` is the
number of cells (R175). -/
def Memory.wf (m : Memory) : Bool := m.map Prod.fst == List.range m.length

/-- `LEN` (R50, R175; log 6). -/
def Memory.len (m : Memory) : Nat := m.length

/-- Cells for the given bytes at consecutive offsets. -/
def Memory.cellsFrom (off : Nat) : List Byte → Memory
  | [] => []
  | b :: bs => (off, b) :: Memory.cellsFrom (off + 1) bs

/-- A byte sequence lent as a buffer: byte `i` at offset `i` (R50). -/
def Memory.ofBytes (bs : List Byte) : Memory := Memory.cellsFrom 0 bs

/-- The bytes of the buffer in increasing offset (R55, R64). -/
def Memory.bytes (m : Memory) : List Byte := m.map Prod.snd

/-- `BUF[a]`; none where the offset does not exist (R50). -/
def Memory.readByte (m : Memory) (a : Nat) : Option Byte := List.lookup a m

/-- The bytes at `addr`, `addr + 1`, …, one read each (R57). -/
def Memory.gather (m : Memory) (addr : Nat) : Nat → Option (List Byte)
  | 0 => some []
  | n + 1 =>
    match m.readByte addr, m.gather (addr + 1) n with
    | some b, some bs => some (b :: bs)
    | _, _ => none

/-- `MemRead(addr, n)` (R52): it has a value only where `addr + n <= LEN`. -/
def Memory.memRead (m : Memory) (addr n : Nat) : Option (List Byte) :=
  if addr + n ≤ m.len then m.gather addr n else none

/-! ## Record operands (R117, R78, R79) -/

/-- `ps = CUR + 6` (R117). -/
def State.payloadStart (s : State) : Nat := s.cur + Config.recHdrLen

/-- The transmitted CRC of a CRC16 record (R78). -/
def State.payload16 (s : State) : Option U16 :=
  match s.buf.memRead s.payloadStart Config.crc16Payload with
  | some [b0, b1] => some (le16 b0 b1)
  | _ => none

/-- The identifier of a PACKAGE record (R79). -/
def State.payload32 (s : State) : Option U32 :=
  match s.buf.memRead s.payloadStart Config.packagePayload with
  | some [b0, b1, b2, b3] => some (le32 b0 b1 b2 b3)
  | _ => none

/-- The magic as the header step reads it (R112). -/
def State.headerMagic (s : State) : Option U32 :=
  match s.buf.memRead 0 Config.magicLen with
  | some [b0, b1, b2, b3] => some (be32 b0 b1 b2 b3)
  | _ => none

end Sys2Proof.Machine
end

