-- ==== Sys2Proof/Machine/Ops.lean ====
section
/-! DEFINITION. The operations the meanings share. -/

namespace Sys2Proof.Machine

/-! ## Errors (60_exceptions.md) -/

/-- The two errors of the closed taxonomy (R150). -/
inductive ParseError where
  /-- R152. -/
  | formatMismatch
  /-- R153, with the offset that `ERR_OFF` takes. -/
  | truncatedRecord (off : Nat)
  deriving DecidableEq, Repr

/-- TAKING AN EXCEPTION (R159): `raise E` ends the `PARSE`. TruncatedRecord saves its offset in
`ERR_OFF`; `CUR`, the result, `MODE`, `TBL` and `ACC` stay (R152, R153). There is no vector and no
return (R161): the next `PARSE` or `RESET` leaves the error status. -/
def State.raise (e : ParseError) (s : State) : State :=
  match e with
  | .formatMismatch => { s with status := .errFormat }
  | .truncatedRecord off => { s with errOff := off, status := .errTrunc }

/-! ## The run of a PARSE (41_parser_control.md) -/

/-- Step `start` (R111), with the buffer the host lends (R50; log 4). -/
def State.start (buf : List Byte) (mode : CrcMode) (s : State) : State :=
  { s with
    status := .busy
    mode := mode
    cur := 0
    errOff := 0
    res := .empty
    buf := .ofBytes buf }

/-- The header is accepted: `CUR <- 16` (R113). -/
def State.acceptHeader (s : State) : State := { s with cur := Config.hdrLen }

/-- `CUR <- CUR + 6 + n` (R120), without wrap-around (R121). -/
def State.advance (n : U32) (s : State) : State :=
  { s with cur := s.cur + Config.recHdrLen + n.toNat }

/-- What a step adds after an instruction's own effect: a record advances the cursor by its own
length field (R120); the header and the operations move it themselves. -/
def State.retire (i : Instr) (s : State) : State :=
  match i.recordLen? with
  | some n => s.advance n
  | none => s

/-- Loop completion (R122). -/
def State.complete (s : State) : State := { s with status := .ok }

/-! ## Result registers -/

/-- Write the result registers. -/
def State.setRes (r : Result) (s : State) : State := { s with res := r }

/-- The slice a record records: its payload's offset and length (R28, R29). -/
def State.payloadSlice (n : U32) (s : State) : Slice := .present s.payloadStart n

/-! ## CRC engine (40_crc_engine.md) -/

/-- Build the table (R93). -/
def State.buildTbl (s : State) : State :=
  { s with tbl := builtTbl Config.crcVariant, tblValid := true }

/-- Lazy build (R94): every use of the table builds it first if `TBL_VALID` = 0. -/
def State.ensureTbl (s : State) : State := if s.tblValid then s else s.buildTbl

/-- Write `ACC`. -/
def State.setAcc (a : U16) (s : State) : State := { s with acc := a }

/-- Fold a byte sequence into an accumulator value with the state's own table, built first if need
be, and leave it in `ACC` (R94, R98, R99, R101). -/
def State.absorb (a : U16) (data : List Byte) (s : State) : State :=
  let t := s.ensureTbl
  t.setAcc (crc Config.crcVariant t.tbl a data)

/-- `CRC_CHECK(tx)` (R101): the whole buffer from the seed 0xFFFF (R64), complemented. -/
def State.crcCheck (tx : U16) (s : State) : State :=
  let t := s.absorb Config.seed s.buf.bytes
  let v := ~~~t.acc
  t.setRes { t.res with crcComputed := v, crcValid := crcVerdict t.mode v tx }

/-! ## Reset (70_reset_and_hazards.md) -/

/-- The entries of `TBL` after the `RESET` operation: free values (R40, R170; log 10). -/
def freeTable (resets : Nat) : Table := tableOf (Config.freeTbl resets)

/-- The `RESET` operation (R170): the values of R40; `TBL`, `ACC` and `MODE` become unspecified, so
they take free values (log 10). The buffer and the pending operations are the host's (log 20). -/
def State.applyReset (s : State) : State :=
  { s with
    tbl := freeTable s.fresh
    tblValid := false
    acc := Config.freeAcc s.fresh
    mode := Config.freeMode s.fresh
    status := .idle
    errOff := 0
    cur := 0
    res := .empty
    fresh := s.fresh + 1 }

end Sys2Proof.Machine
end

