-- ==== Sys2Proof/Machine/Control.lean ====
section
/-! DEFINITION. The control operations: RESET and PARSE. -/

namespace Sys2Proof.Machine

/-- RESET (R170). -/
def execReset (s : State) : Host.Outcome State Fault Refusal := .next s.applyReset

/-- PARSE (R110): its first step, `start` (R111). The header, each record and the completion are
steps of the machine (R10), and no operation is taken before they are over (log 3). -/
def execParse (buf : List Byte) (mode : CrcMode) (s : State) :
    Host.Outcome State Fault Refusal :=
  .next (s.start buf mode)

end Sys2Proof.Machine
end

