-- ==== Sys2Proof/Machine/Engine.lean ====
section
/-! DEFINITION. The CRC engine's operations (40_crc_engine.md). None raises (R165), and none depends
on `STATUS` (R161). -/

namespace Sys2Proof.Machine

/-- TBL_INIT (R93). -/
def execTblInit (s : State) : Host.Outcome State Fault Refusal := .next s.buildTbl

/-- CRC_SEED (R95). -/
def execCrcSeed (a : U16) (s : State) : Host.Outcome State Fault Refusal := .next (s.setAcc a)

/-- CRC_BYTE (R98): one update of the running value, whatever `ACC` holds (log 11). -/
def execCrcByte (b : Byte) (s : State) : Host.Outcome State Fault Refusal :=
  .next (s.absorb s.acc [b])

/-- CRC_COMPUTE (R99): the returned value stands in `ACC` (log 17). -/
def execCrcCompute (seed : U16) (data : List Byte) (s : State) :
    Host.Outcome State Fault Refusal :=
  .next (s.absorb seed data)

/-- CRC_CHECK (R101): issued only by the CRC16 record, never by the host (log 22). -/
def execCrcCheck (tx : U16) (s : State) : Host.Outcome State Fault Refusal :=
  .next (s.crcCheck tx)

end Sys2Proof.Machine
end

