-- ==== Sys2Proof/Machine/Header.lean ====
section
/-! DEFINITION. The header family: SOF. -/

namespace Sys2Proof.Machine

/-- SOF (R112, R114, R113, in this order: R158). The magic is tested before the length of the rest
of the header; the reserved bytes are not read (R71). -/
def execSof (s : State) : Host.Outcome State Fault Refusal :=
  if s.buf.len < Config.magicLen then .next (s.raise .formatMismatch)
  else
    match s.headerMagic with
    | none => .fault (.bufferReadPastEnd 0 Config.magicLen)
    | some m =>
      if m ≠ Config.magic then .next (s.raise .formatMismatch)
      else if s.buf.len < Config.hdrLen then .next (s.raise (.truncatedRecord 0))
      else .next s.acceptHeader

end Sys2Proof.Machine
end

