-- ==== Sys2Proof/Machine/Records.lean ====
section
/-! DEFINITION. The record family (42_records.md). Each meaning is applied after both bounds checks
and before the cursor advances; none writes `CUR`, `STATUS`, `ERR_OFF` or `MODE`, none raises (R119). -/

namespace Sys2Proof.Machine

/-- BUILDTOOL (R130). -/
def execBuildtool (n : U32) (s : State) : Host.Outcome State Fault Refusal :=
  .next (s.setRes { s.res with bt := s.payloadSlice n })

/-- CHIPTYPE (R131). -/
def execChiptype (n : U32) (s : State) : Host.Outcome State Fault Refusal :=
  .next (s.setRes { s.res with ct := s.payloadSlice n })

/-- NAME (R132). -/
def execName (n : U32) (s : State) : Host.Outcome State Fault Refusal :=
  .next (s.setRes { s.res with nm := s.payloadSlice n })

/-- CRC16 (R133): with at least two payload bytes, record the transmitted value and check the whole
buffer; with fewer, no effect (R83). -/
def execCrc16 (n : U32) (s : State) : Host.Outcome State Fault Refusal :=
  if n.toNat < Config.crc16Payload then .next s
  else
    match s.payload16 with
    | none => .fault (.bufferReadPastEnd s.payloadStart Config.crc16Payload)
    | some tx => .next ((s.setRes { s.res with crcTx := tx, crcSeen := true }).crcCheck tx)

/-- BITSTREAM (R134). -/
def execBitstream (n : U32) (s : State) : Host.Outcome State Fault Refusal :=
  .next (s.setRes { s.res with bs := s.payloadSlice n })

/-- PACKAGE (R135): with at least four payload bytes, record the identifier; with fewer, no effect
(R83). -/
def execPackage (n : U32) (s : State) : Host.Outcome State Fault Refusal :=
  if n.toNat < Config.packagePayload then .next s
  else
    match s.payload32 with
    | none => .fault (.bufferReadPastEnd s.payloadStart Config.packagePayload)
    | some id => .next (s.setRes { s.res with pkgId := id, pkgSeen := true })

/-- RAM_M4K (R136). -/
def execRamM4k (n : U32) (s : State) : Host.Outcome State Fault Refusal :=
  .next (s.setRes { s.res with ram := s.payloadSlice n })

/-- SKIP (R137, R154): no register and no flag is written. -/
def execSkip (_tag : U16) (_n : U32) (s : State) : Host.Outcome State Fault Refusal := .next s

end Sys2Proof.Machine
end

