-- ==== Sys2Proof/Machine/Dispatch.lean ====
section
/-! DEFINITION. One arm per constructor of Instr. -/

namespace Sys2Proof.Machine

def exec (i : Instr) (s : State) : Host.Outcome State Fault Refusal :=
  match i with
  | .sof => Sys2Proof.Machine.execSof s
  | .buildtool n => Sys2Proof.Machine.execBuildtool n s
  | .chiptype n => Sys2Proof.Machine.execChiptype n s
  | .name n => Sys2Proof.Machine.execName n s
  | .crc16 n => Sys2Proof.Machine.execCrc16 n s
  | .bitstream n => Sys2Proof.Machine.execBitstream n s
  | .package n => Sys2Proof.Machine.execPackage n s
  | .ramM4k n => Sys2Proof.Machine.execRamM4k n s
  | .skip tag n => Sys2Proof.Machine.execSkip tag n s
  | .reset => Sys2Proof.Machine.execReset s
  | .tblInit => Sys2Proof.Machine.execTblInit s
  | .crcSeed a => Sys2Proof.Machine.execCrcSeed a s
  | .crcByte b => Sys2Proof.Machine.execCrcByte b s
  | .crcCompute seed data => Sys2Proof.Machine.execCrcCompute seed data s
  | .parse buf mode => Sys2Proof.Machine.execParse buf mode s
  | .crcCheck tx => Sys2Proof.Machine.execCrcCheck tx s

end Sys2Proof.Machine
end

