-- ==== Sys2Proof/Machine/Fetch.lean ====
section
/-! DEFINITION. What a busy machine does next (R110): the header, a record, an error or the end. -/

namespace Sys2Proof.Machine

/-- The next step of a running `PARSE`. -/
inductive Fetched where
  /-- Run an instruction. -/
  | run (i : Instr)
  /-- A bounds check failed (R116, R118). -/
  | raised (e : ParseError)
  /-- The cursor met the end of the buffer (R122). -/
  | finished
  /-- A read outside the buffer: never (R52, R182). -/
  | outside (r : Fault)
  deriving DecidableEq, Repr

/-- The record step up to dispatch: check 1 (R116), decode (R117), check 2 (R118), dispatch by the
whole tag (R119). No payload byte is read here. -/
def fetchRecord (s : State) : Fetched :=
  if s.buf.len < s.cur + Config.recHdrLen then .raised (.truncatedRecord s.cur)
  else
    match s.buf.memRead s.cur Config.recHdrLen with
    | none => .outside (.bufferReadPastEnd s.cur Config.recHdrLen)
    | some h =>
      match decode .tlv h with
      | .error _ => .outside (.bufferReadPastEnd s.cur Config.recHdrLen)
      | .ok i =>
        if s.buf.len < s.payloadStart + (i.recordLen?.map BitVec.toNat).getD 0 then
          .raised (.truncatedRecord s.cur)
        else .run i

/-- The header while `CUR` = 0 (R112, R171), the end when `CUR` = `LEN` (R122), else a record
(R115). The header has been accepted exactly when `CUR` ≠ 0 (R113, R126; log 12). -/
def fetch (s : State) : Fetched :=
  if s.cur = 0 then .run .sof
  else if s.cur = s.buf.len then .finished
  else fetchRecord s

/-- The instruction's own outcome, with what the step adds to a next state. -/
def retireOutcome (i : Instr) (o : Host.Outcome State Fault Refusal) :
    Host.Outcome State Fault Refusal :=
  match o with
  | .next t => .next (t.retire i)
  | .fault r => .fault r
  | .refused r => .refused r

/-- A buffer in which the very next fetch of a busy machine meets the given opcode-table word: a
header at offset 0, or a record after a header with zero reserved bytes. -/
def fetchBuffer (nbits w : Nat) : List Byte :=
  match formatOfWidth nbits with
  | .hdr => layoutWord nbits w
  | .tlv => encodeHeader (List.replicate 12 0) ++ layoutWord nbits w

/-- Where the cursor stands for that fetch. -/
def fetchCursor (nbits : Nat) : Nat :=
  match formatOfWidth nbits with
  | .hdr => 0
  | .tlv => Config.hdrLen

/-- `s` in the middle of a `PARSE` of that buffer (log 1). -/
def State.placeWord (s : State) (nbits w : Nat) : State :=
  { s with
    buf := .ofBytes (fetchBuffer nbits w)
    cur := fetchCursor nbits
    status := .busy }

end Sys2Proof.Machine
end

