-- ==== Sys2Proof/Machine/Step.lean ====
section
/-! DEFINITION. One step of the machine: a step of the running `PARSE`, or else one host operation,
or else idling. -/

namespace Sys2Proof.Machine

/-- A step of the running `PARSE` (R110). -/
def parserStep (s : State) : Host.Outcome State Fault Refusal :=
  match fetch s with
  | .run i => retireOutcome i (exec i s)
  | .raised e => .next (s.raise e)
  | .finished => .next s.complete
  | .outside r => .fault r

/-- The next operation of the host (R10, R183); with none, the block is idle with its registers held
(log 2). -/
def hostStep (s : State) : Host.Outcome State Fault Refusal :=
  match s.pending with
  | [] => .next s
  | op :: ops => exec op.instr { s with pending := ops }

/-- No host operation falls between two steps of one `PARSE` (R10). -/
def step (s : State) : Host.Outcome State Fault Refusal :=
  match s.status with
  | .busy => parserStep s
  | .idle | .ok | .errFormat | .errTrunc => hostStep s

/-- `s` with an opcode-table word where the next step fetches it (log 1, log 18). -/
def State.withFetchWord (s : State) (nbits w : Nat) : State := s.placeWord nbits w

end Sys2Proof.Machine
end

