-- ==== Sys2Proof/Machine/Assembly.lean ====
section
/-! DEFINITION. The stream-assembly notation (R84, R85): how streams are written down. It says nothing
of the block (log 24). -/

namespace Sys2Proof.Machine

/-- A statement of the notation (R84). A text is given by its ASCII bytes. -/
inductive Stmt where
  | sof (reserved : List Byte)
  | record (tag : U16) (payload : List Byte)
  | recLen (tag : U16) (n : U32) (payload : List Byte)
  | raw (bytes : List Byte)
  | buildtool (text : List Byte)
  | chiptype (text : List Byte)
  | name (text : List Byte)
  | crc16 (v : U16)
  | crc16Auto
  | bitstream (bytes : List Byte)
  | package (v : U32)
  | ramM4k (bytes : List Byte)
  deriving DecidableEq, Repr

/-- `RECLEN tag, n, …`: the stated length, whatever the number of payload bytes (R84). -/
def recLenBytes (tag : U16) (n : U32) (payload : List Byte) : List Byte :=
  encodeRecordHeader tag n ++ payload

/-- `REC tag, …`: the length is the number of payload bytes (R84). -/
def recBytes (tag : U16) (payload : List Byte) : List Byte :=
  recLenBytes tag (BitVec.ofNat 32 payload.length) payload

/-- The complemented CRC of a byte sequence from the validation seed (R101). -/
def crcComplement (v : CrcVariant) (data : List Byte) : U16 :=
  ~~~crc v (builtTbl v) Config.seed data

/-- The two payload bytes of `CRC16 auto` after the bytes `m`, its own tag and length included
(R85): the closed form for `LSB_FIRST`, a search for `MSB_FIRST`. -/
def autoPayload (v : CrcVariant) (m : List Byte) : List Byte :=
  match v with
  | .lsbFirst => bytesLE16 (crcComplement v m)
  | .msbFirst =>
    match (List.range (2 ^ 16)).find? fun k =>
        crcComplement v (m ++ bytesLE16 (BitVec.ofNat 16 k)) == Config.checkConst with
    | some k => bytesLE16 (BitVec.ofNat 16 k)
    | none => []

/-- The record of `CRC16 auto` after the stream `before` (R85). -/
def autoRecord (v : CrcVariant) (before : List Byte) : List Byte :=
  let h := encodeRecordHeader Config.tagCrc16 (BitVec.ofNat 32 Config.crc16Payload)
  h ++ autoPayload v (before ++ h)

/-- The bytes a statement stands for, after the bytes already emitted (R84, R85). -/
def Stmt.bytes (v : CrcVariant) (before : List Byte) : Stmt → List Byte
  | .sof reserved => encodeHeader reserved
  | .record tag payload => recBytes tag payload
  | .recLen tag n payload => recLenBytes tag n payload
  | .raw bytes => bytes
  | .buildtool text => recBytes Config.tagBuildtool text
  | .chiptype text => recBytes Config.tagChiptype text
  | .name text => recBytes Config.tagName text
  | .crc16 x => recBytes Config.tagCrc16 (bytesLE16 x)
  | .crc16Auto => autoRecord v before
  | .bitstream bytes => recBytes Config.tagBitstream bytes
  | .package x => recBytes Config.tagPackage (bytesLE32 x)
  | .ramM4k bytes => recBytes Config.tagRamM4k bytes

/-- The bytes of a list of statements, one after the other. -/
def assemble (v : CrcVariant) (stmts : List Stmt) : List Byte :=
  stmts.foldl (fun bs s => bs ++ s.bytes v bs) []

end Sys2Proof.Machine
end

