-- ==== Sys2Proof/Safety.lean ====
section
/-! DEFINITION. What claims are stated in: what the host sees, the invariant of the machine, and the
contract of a whole `PARSE` as a function of the buffer and the mode. -/

namespace Sys2Proof.Machine

/-! ## What the host sees -/

/-- A `PARSE` is over (R125). -/
def Status.terminal : Status → Bool
  | .ok | .errFormat | .errTrunc => true
  | .idle | .busy => false

/-- The registers the host reads (R36, R164): every one but the entries of `TBL`, which have no read
operation (R53, 92 D15). Log 23. -/
structure HostView where
  tblValid : Bool
  acc : U16
  mode : CrcMode
  status : Status
  errOff : Nat
  cur : Nat
  res : Result
  deriving DecidableEq, Repr

/-- The host reads only when no operation is running (R36, R179): never under `BUSY` (R34). -/
def State.hostView (s : State) : Option HostView :=
  match s.status with
  | .busy => none
  | .idle | .ok | .errFormat | .errTrunc =>
    some {
      tblValid := s.tblValid
      acc := s.acc
      mode := s.mode
      status := s.status
      errOff := s.errOff
      cur := s.cur
      res := s.res }

/-- The registers as a ParseResult: only under `STATUS` = `OK` (R179). -/
def State.parseResult (s : State) : Option Result :=
  match s.status with
  | .ok => some s.res
  | .idle | .busy | .errFormat | .errTrunc => none

/-! ## The invariant -/

/-- A built table holds its defined entries (R22, R23). -/
def TblInv (s : State) : Prop := s.tblValid = true → s.tbl = builtTbl Config.crcVariant

/-- Where the cursor stands in each status (R35, R37, R39, R126), and where the result is empty
(R26, R152). -/
def CursorInv (s : State) : Prop :=
  match s.status with
  | .idle | .errFormat => s.cur = 0 ∧ s.errOff = 0 ∧ s.res = .empty
  | .busy =>
    s.errOff = 0 ∧ (s.cur = 0 ∧ s.res = .empty ∨ Config.hdrLen ≤ s.cur ∧ s.cur ≤ s.buf.len)
  | .ok => s.errOff = 0 ∧ Config.hdrLen ≤ s.cur ∧ s.cur = s.buf.len
  | .errTrunc => s.errOff = s.cur ∧ s.cur ≤ s.buf.len ∧ (s.cur = 0 → s.res = .empty)

/-- A present slice lies between the header and the cursor (R27, R126); an absent one reads 0
(R26). -/
def Slice.Within (cur : Nat) (x : Slice) : Prop :=
  if x.seen then
    Config.hdrLen + Config.recHdrLen ≤ x.off ∧ x.off + x.len.toNat ≤ cur
  else x = .absent

/-- Every slice register pair of a result. -/
def Result.slices (r : Result) : List Slice := [r.bs, r.ram, r.bt, r.ct, r.nm]

/-- The slice registers (R27, R28, R29, R126). -/
def SliceInv (s : State) : Prop := ∀ x ∈ s.res.slices, x.Within s.cur

/-- The CRC result fields (R32, R101): what they hold once a CRC16 record was seen, and 0 before. -/
def CrcInv (s : State) : Prop :=
  if s.res.crcSeen then
    s.res.crcComputed = crcComplement Config.crcVariant s.buf.bytes ∧
      s.res.crcValid = crcVerdict s.mode s.res.crcComputed s.res.crcTx
  else s.res.crcValid = false ∧ s.res.crcComputed = 0 ∧ s.res.crcTx = 0

/-- The package register (R26, R30). -/
def PackageInv (s : State) : Prop := s.res.pkgSeen = false → s.res.pkgId = 0

/-- What holds between any two steps of the machine. -/
structure Invariant (s : State) : Prop where
  memory : s.buf.wf = true
  table : TblInv s
  cursor : CursorInv s
  slices : SliceInv s
  crcFields : CrcInv s
  package : PackageInv s

/-! ## The contract of PARSE -/

/-- How a `PARSE` ends (R110): the registers it answers in. -/
structure ParseEnd where
  status : Status
  errOff : Nat
  cur : Nat
  res : Result
  deriving DecidableEq, Repr

/-- What a state shows of the end of a `PARSE`. -/
def State.parseEnd (s : State) : ParseEnd := ⟨s.status, s.errOff, s.cur, s.res⟩

/-- The four CRC registers after a CRC16 record that carries `tx` in the buffer `whole` (R101,
R133). -/
def refCrc (mode : CrcMode) (whole : List Byte) (tx : U16) (r : Result) : Result :=
  { r with
    crcSeen := true
    crcTx := tx
    crcComputed := crcComplement Config.crcVariant whole
    crcValid := crcVerdict mode (crcComplement Config.crcVariant whole) tx }

/-- What a record with payload `p` at offset `ps` does to the result (R130 to R137, R83). -/
def refRecord (mode : CrcMode) (whole : List Byte) (i : Instr) (ps : Nat) (p : List Byte)
    (r : Result) : Result :=
  match i, p with
  | .buildtool n, _ => { r with bt := ⟨ps, n, true⟩ }
  | .chiptype n, _ => { r with ct := ⟨ps, n, true⟩ }
  | .name n, _ => { r with nm := ⟨ps, n, true⟩ }
  | .bitstream n, _ => { r with bs := ⟨ps, n, true⟩ }
  | .ramM4k n, _ => { r with ram := ⟨ps, n, true⟩ }
  | .crc16 _, b0 :: b1 :: _ => refCrc mode whole (le16 b0 b1) r
  | .package _, b0 :: b1 :: b2 :: b3 :: _ => { r with pkgId := le32 b0 b1 b2 b3, pkgSeen := true }
  | _, _ => r

/-- The record loop (R115 to R122) from offset `cur`; the first argument bounds the number of
records (R123). -/
def refRecords (mode : CrcMode) (whole : List Byte) : Nat → Nat → Result → ParseEnd
  | 0, cur, r => ⟨.ok, 0, cur, r⟩
  | k + 1, cur, r =>
    match whole.drop cur with
    | [] => ⟨.ok, 0, cur, r⟩
    | t0 :: t1 :: l0 :: l1 :: l2 :: l3 :: rest =>
      let n := le32 l0 l1 l2 l3
      if rest.length < n.toNat then ⟨.errTrunc, cur, cur, r⟩
      else
        refRecords mode whole k (cur + Config.recHdrLen + n.toNat)
          (refRecord mode whole (recordOf (le16 t0 t1) n) (cur + Config.recHdrLen)
            (rest.take n.toNat) r)
    | _ => ⟨.errTrunc, cur, cur, r⟩

/-- `parse(buffer)` as a function (R2, R110, R127): the header as the decoder reads it, then the
records. -/
def refParse (mode : CrcMode) (whole : List Byte) : ParseEnd :=
  match decodeHeader whole with
  | .error .badMagic => ⟨.errFormat, 0, 0, .empty⟩
  | .error _ => ⟨.errTrunc, 0, 0, .empty⟩
  | .ok _ => refRecords mode whole (whole.length + 1) Config.hdrLen .empty

end Sys2Proof.Machine
end

