-- ==== Sys2Proof/Certificates/Slice0/Obligations.lean ====
section
/-! DEFINITION. The statements. Numbers are written out (16, 6, 0x0F47) so that a statement reads
beside the rule it cites. `TblInv s` says that a table marked built holds its defined entries; every
step keeps it (`Obligations.EveryStepKeepsInvariant`). -/

open Sys2Proof Sys2Proof.Machine

/-! ## Encoding -/

/-- R5, R6, R7: the decode primitives as the sums of the rules. -/
def Obligations.DecodePrimitivesAreByteSums : Prop :=
  ∀ b0 b1 b2 b3 : Byte,
    (le16 b0 b1).toNat = b0.toNat + 256 * b1.toNat ∧
      (le32 b0 b1 b2 b3).toNat =
        b0.toNat + 2 ^ 8 * b1.toNat + 2 ^ 16 * b2.toNat + 2 ^ 24 * b3.toNat ∧
      (be32 b0 b1 b2 b3).toNat =
        2 ^ 24 * b0.toNat + 2 ^ 16 * b1.toNat + 2 ^ 8 * b2.toNat + b3.toNat

/-- Words written out in 95_test_vectors.md section 3 decode to their instructions. -/
def Obligations.DecodeReadsSpecWords : Prop :=
  decode .hdr [0x53, 0x4F, 0x46, 0x00, 1, 2, 3, 4, 5, 6, 7, 8, 9, 10, 11, 12] = .ok .sof ∧
    decode .tlv [0x01, 0x00, 0x02, 0x00, 0x00, 0x00, 0x71, 0x74] = .ok (.buildtool 2) ∧
    decode .tlv [0x08, 0x00, 0x02, 0x00, 0x00, 0x00, 0x47, 0x0F] = .ok (.crc16 2) ∧
    decode .tlv [0x12, 0x00, 0x04, 0x00, 0x00, 0x00] = .ok (.package 4) ∧
    decode .tlv [0x11, 0x01, 0x03, 0x00, 0x00, 0x00] = .ok (.skip 0x0111 3)

/-- Decoding the encoding of a well-formed instruction, whatever bytes follow it, gives the
instruction: no bit of an encoding is dropped (R72, R76). -/
def Obligations.DecodeInvertsEncode : Prop :=
  ∀ (i : Instr) (f : Format) (bs rest : List Byte),
    i.wellFormed = true → i.format? = some f → encode i = some bs →
      decode f (bs ++ rest) = .ok i

/-- Six record header bytes are the encoding of what they decode to, and that is well-formed (R72,
R77). -/
def Obligations.RecordEncodeInvertsDecode : Prop :=
  ∀ (h : List Byte) (i : Instr),
    h.length = 6 → decode .tlv h = .ok i → encode i = some h ∧ i.wellFormed = true

/-- What the decoder refuses, each by its name: a record header of fewer than six bytes (R116), a bad
magic (R112), a short header (R114). That the payload fits in the buffer (R118, the rest of R82) is no
matter of the six bytes: `Obligations.RecordBoundsChecksRaise` says it. -/
def Obligations.DecodeRefusesByName : Prop :=
  (∀ bs e, decode .tlv bs = .error e ↔ e = .shortRecord ∧ bs.length < 6) ∧
    (∀ bs, decode .hdr bs = .error .badMagic ↔ bs.take 4 ≠ [0x53, 0x4F, 0x46, 0x00]) ∧
    (∀ bs, decode .hdr bs = .error .shortHeader ↔
      bs.take 4 = [0x53, 0x4F, 0x46, 0x00] ∧ bs.length < 16) ∧
    (∀ bs i, decode .hdr bs = .ok i ↔
      i = .sof ∧ bs.take 4 = [0x53, 0x4F, 0x46, 0x00] ∧ 16 ≤ bs.length)

/-- R77: a record is of a recognised kind exactly when both tag bytes are that kind's; every other
tag is skipped with its own tag and length. -/
def Obligations.TagsCompareBothBytes : Prop :=
  ∀ (t0 t1 l0 l1 l2 l3 : Byte) (rest : List Byte),
    let got := decode .tlv (t0 :: t1 :: l0 :: l1 :: l2 :: l3 :: rest)
    let n := le32 l0 l1 l2 l3
    (got = .ok (.buildtool n) ↔ t0 = 0x01 ∧ t1 = 0x00) ∧
      (got = .ok (.chiptype n) ↔ t0 = 0x02 ∧ t1 = 0x00) ∧
      (got = .ok (.name n) ↔ t0 = 0x03 ∧ t1 = 0x00) ∧
      (got = .ok (.crc16 n) ↔ t0 = 0x08 ∧ t1 = 0x00) ∧
      (got = .ok (.bitstream n) ↔ t0 = 0x11 ∧ t1 = 0x00) ∧
      (got = .ok (.package n) ↔ t0 = 0x12 ∧ t1 = 0x00) ∧
      (got = .ok (.ramM4k n) ↔ t0 = 0x15 ∧ t1 = 0x00) ∧
      (got = .ok (.skip (le16 t0 t1) n) ↔
        ¬(t1 = 0x00 ∧ t0 ∈ ([0x01, 0x02, 0x03, 0x08, 0x11, 0x12, 0x15] : List Byte)))

/-! ## The header and the records -/

/-- R112, R114, R113: the four outcomes of the header step on a canonical buffer, in the order of
the checks; each names everything that changes. The first clause takes in `LEN` < 4. -/
def Obligations.HeaderStepOutcomes : Prop :=
  ∀ s : State, s.buf.wf = true →
    (s.buf.memRead 0 4 ≠ some [0x53, 0x4F, 0x46, 0x00] →
      exec .sof s = .next { s with status := .errFormat }) ∧
    (s.buf.memRead 0 4 = some [0x53, 0x4F, 0x46, 0x00] → s.buf.len < 16 →
      exec .sof s = .next { s with errOff := 0, status := .errTrunc }) ∧
    (s.buf.memRead 0 4 = some [0x53, 0x4F, 0x46, 0x00] → 16 ≤ s.buf.len →
      exec .sof s = .next { s with cur := 16 })

/-- R130, R131, R132, R134, R136: the five slice records complete in every state, write their own
slice and their flag, and change nothing else. -/
def Obligations.SliceRecordsRecordTheirPayload : Prop :=
  ∀ (s : State) (n : U32),
    exec (.buildtool n) s = .next { s with res := { s.res with bt := ⟨s.cur + 6, n, true⟩ } } ∧
      exec (.chiptype n) s = .next { s with res := { s.res with ct := ⟨s.cur + 6, n, true⟩ } } ∧
      exec (.name n) s = .next { s with res := { s.res with nm := ⟨s.cur + 6, n, true⟩ } } ∧
      exec (.bitstream n) s = .next { s with res := { s.res with bs := ⟨s.cur + 6, n, true⟩ } } ∧
      exec (.ramM4k n) s = .next { s with res := { s.res with ram := ⟨s.cur + 6, n, true⟩ } }

/-- R135: a PACKAGE record that lies inside a canonical buffer decodes the first four payload bytes
little-endian, or has no effect when it has fewer than four. -/
def Obligations.PackageDecodesIdentifier : Prop :=
  ∀ (s : State) (n : U32), s.buf.wf = true → s.cur + 6 + n.toNat ≤ s.buf.len →
    (4 ≤ n.toNat →
      ∃ b0 b1 b2 b3, s.buf.memRead (s.cur + 6) 4 = some [b0, b1, b2, b3] ∧
        exec (.package n) s =
          .next { s with res := { s.res with pkgId := le32 b0 b1 b2 b3, pkgSeen := true } }) ∧
    (n.toNat < 4 → exec (.package n) s = .next s)

/-- R133 with R101: a CRC16 record that lies inside a canonical buffer decodes the transmitted value
and checks the whole buffer, or has no effect when it has fewer than two payload bytes. A mismatch
is no error. -/
def Obligations.Crc16ChecksTheWholeBuffer : Prop :=
  ∀ (s : State) (n : U32), s.buf.wf = true → TblInv s → s.cur + 6 + n.toNat ≤ s.buf.len →
    (2 ≤ n.toNat →
      ∃ b0 b1 whole, s.buf.memRead (s.cur + 6) 2 = some [b0, b1] ∧
        s.buf.memRead 0 s.buf.len = some whole ∧
        exec (.crc16 n) s = .next { s with
          tbl := builtTbl .lsbFirst
          tblValid := true
          acc := crc .lsbFirst (builtTbl .lsbFirst) 0xFFFF whole
          res := { s.res with
            crcTx := le16 b0 b1
            crcSeen := true
            crcComputed := crc .lsbFirst (builtTbl .lsbFirst) 0xFFFF whole ^^^ 0xFFFF
            crcValid := decide (crc .lsbFirst (builtTbl .lsbFirst) 0xFFFF whole ^^^ 0xFFFF =
              if s.mode = .const then 0x0F47 else le16 b0 b1) } }) ∧
    (n.toNat < 2 → exec (.crc16 n) s = .next s)

/-- R101: CRC_CHECK hashes every byte of the buffer from 0xFFFF, stores the complement and compares
it with 0x0F47 or with its operand; `ACC` keeps the raw value. -/
def Obligations.CrcCheckValidates : Prop :=
  ∀ (s : State) (tx : U16), s.buf.wf = true → TblInv s →
    ∃ whole, s.buf.memRead 0 s.buf.len = some whole ∧
      exec (.crcCheck tx) s = .next { s with
        tbl := builtTbl .lsbFirst
        tblValid := true
        acc := crc .lsbFirst (builtTbl .lsbFirst) 0xFFFF whole
        res := { s.res with
          crcComputed := crc .lsbFirst (builtTbl .lsbFirst) 0xFFFF whole ^^^ 0xFFFF
          crcValid := decide (crc .lsbFirst (builtTbl .lsbFirst) 0xFFFF whole ^^^ 0xFFFF =
            if s.mode = .const then 0x0F47 else tx) } }

/-- R137: SKIP changes nothing, in every state. -/
def Obligations.SkipHasNoEffect : Prop :=
  ∀ (s : State) (tag : U16) (n : U32), exec (.skip tag n) s = .next s

/-- R81: an unrecognised record that fits costs 6 + n bytes and changes nothing but the cursor,
whatever its payload. That a cursor other than 0 means an accepted header is the model's inference:
log 12. -/
def Obligations.UnrecognisedRecordOnlyAdvances : Prop :=
  ∀ (s : State) (t0 t1 l0 l1 l2 l3 : Byte), s.status = .busy → s.cur ≠ 0 →
    s.buf.memRead s.cur 6 = some [t0, t1, l0, l1, l2, l3] →
    le16 t0 t1 ∉ ([1, 2, 3, 8, 17, 18, 21] : List U16) →
    s.cur + 6 + (le32 l0 l1 l2 l3).toNat ≤ s.buf.len →
      step s = .next { s with cur := s.cur + 6 + (le32 l0 l1 l2 l3).toNat }

/-- No record meaning writes `CUR`, `STATUS`, `ERR_OFF` or `MODE`, none touches the buffer or the
host's operations, and none raises (42_records.md, before section 1; R119). -/
def Obligations.RecordsNeverTouchControl : Prop :=
  ∀ (i : Instr) (n : U32) (s t : State), i.recordLen? = some n → exec i s = .next t →
    t.cur = s.cur ∧ t.status = s.status ∧ t.errOff = s.errOff ∧ t.mode = s.mode ∧
      t.buf = s.buf ∧ t.pending = s.pending ∧ t.fresh = s.fresh

/-- R139: two records of different tags, at whatever offsets, leave the same result in either
order. -/
def Obligations.RecordsOfDifferentTagsCommute : Prop :=
  ∀ (i j : Instr) (n m : U32) (p q : Nat) (s s1 s2 t1 t2 : State),
    i.recordLen? = some n → j.recordLen? = some m → i.tag? ≠ j.tag? →
    exec i { s with cur := p } = .next s1 → exec j { s1 with cur := q } = .next s2 →
    exec j { s with cur := q } = .next t1 → exec i { t1 with cur := p } = .next t2 →
      s2.res = t2.res

/-- R138: of two records of one tag the last one wins, so long as it has an effect at all (a CRC16 of
fewer than 2 bytes and a PACKAGE of fewer than 4 have none, R83). -/
def Obligations.LastRecordOfATagWins : Prop :=
  ∀ (i j : Instr) (n m : U32) (p q : Nat) (s s1 s2 t : State),
    i.recordLen? = some n → j.recordLen? = some m →
    i.wellFormed = true → j.wellFormed = true → i.tag? = j.tag? →
    (j.tag? = some 8 → 2 ≤ m.toNat) → (j.tag? = some 18 → 4 ≤ m.toNat) →
    exec i { s with cur := p } = .next s1 → exec j { s1 with cur := q } = .next s2 →
    exec j { s with cur := q } = .next t →
      s2.res = t.res

/-! ## Reset and the CRC engine -/

/-- R170, R40: RESET completes in every state and leaves the values the rules give; `TBL`, `ACC` and
`MODE` are not named, since the rules leave them unspecified. That the buffer and the host's operations
stay is the model's choice, log 20: they are not the block's. -/
def Obligations.ResetOperationLeavesResetValues : Prop :=
  ∀ s : State, ∃ t, exec .reset s = .next t ∧
    t.tblValid = false ∧ t.status = .idle ∧ t.cur = 0 ∧ t.errOff = 0 ∧
    (∀ x ∈ [t.res.bs, t.res.ram, t.res.bt, t.res.ct, t.res.nm],
      x.off = 0 ∧ x.len = 0 ∧ x.seen = false) ∧
    t.res.pkgId = 0 ∧ t.res.pkgSeen = false ∧ t.res.crcSeen = false ∧ t.res.crcValid = false ∧
    t.res.crcComputed = 0 ∧ t.res.crcTx = 0 ∧
    t.buf = s.buf ∧ t.pending = s.pending

/-- R40 for the machine right after reset: the values the rule gives. -/
def Obligations.PowerOnHoldsResetValues : Prop :=
  State.reset.tblValid = false ∧ State.reset.status = .idle ∧ State.reset.cur = 0 ∧
    State.reset.errOff = 0 ∧ State.reset.res = Result.empty

/-- R93 with R91: TBL_INIT fills every entry by the reflected loop, sets `TBL_VALID`, and changes
nothing else; issued again it changes nothing. -/
def Obligations.TblInitBuildsEveryEntry : Prop :=
  ∀ s : State, ∃ t, exec .tblInit s = .next t ∧ t.tblValid = true ∧
    (∀ i : Byte, tblRead t.tbl i = eightTimes
      (fun c => if c.getLsbD 0 then (c >>> 1) ^^^ 0x8408 else c >>> 1) (i.setWidth 16)) ∧
    { t with tbl := s.tbl, tblValid := s.tblValid } = s ∧
    exec .tblInit t = .next t

/-- R95: CRC_SEED writes `ACC` and nothing else. -/
def Obligations.CrcSeedLoadsAccumulator : Prop :=
  ∀ (s : State) (a : U16), exec (.crcSeed a) s = .next { s with acc := a }

/-- R96, R98 (with the lazy build of R94): CRC_BYTE absorbs one byte. The statement holds for every
value of `ACC`, so also for the one it has before anything wrote it: log 11. -/
def Obligations.CrcByteUpdatesAccumulator : Prop :=
  ∀ (s : State) (b : Byte), TblInv s →
    exec (.crcByte b) s = .next { s with
      tbl := builtTbl .lsbFirst
      tblValid := true
      acc := (s.acc >>> 8) ^^^ tblEntry .lsbFirst (s.acc.setWidth 8 ^^^ b) }

/-- R99: CRC_COMPUTE folds the update over the data in increasing order and leaves the uncomplemented
CRC in `ACC`; empty data leaves the seed. -/
def Obligations.CrcComputeFoldsUpdate : Prop :=
  ∀ (s : State) (seed : U16) (data : List Byte), TblInv s →
    exec (.crcCompute seed data) s = .next { s with
      tbl := builtTbl .lsbFirst
      tblValid := true
      acc := data.foldl
        (fun a b => (a >>> 8) ^^^ tblEntry .lsbFirst (a.setWidth 8 ^^^ b)) seed }

/-- R99, laws: the host's CRC_SEED followed by one CRC_BYTE per byte ends with the `ACC` that
CRC_COMPUTE leaves, as steps of the machine. -/
def Obligations.SeedThenBytesIsCompute : Prop :=
  ∀ (s : State) (seed : U16) (data : List Byte), TblInv s → s.status ≠ .busy →
    s.pending = .crcSeed seed :: data.map .crcByte →
    ∃ t u, Host.Core.run core (data.length + 1) s = .next t ∧ t.pending = [] ∧
      exec (.crcCompute seed data) s = .next u ∧ t.acc = u.acc ∧
      t.res = s.res ∧ t.status = s.status

/-- R94: no use of the CRC can tell whether the host issued TBL_INIT first. -/
def Obligations.LazyBuildIsUnobservable : Prop :=
  ∀ (s t : State) (b : Byte) (seed tx : U16) (data : List Byte), TblInv s →
    exec .tblInit s = .next t →
      exec (.crcByte b) t = exec (.crcByte b) s ∧
        exec (.crcCompute seed data) t = exec (.crcCompute seed data) s ∧
        exec (.crcCheck tx) t = exec (.crcCheck tx) s

/-- R161: the operations of the CRC engine complete in every state and `STATUS`, and leave every
register of the parser, the buffer and the host's operations as they are. -/
def Obligations.EngineKeepsParserRegisters : Prop :=
  ∀ (s : State) (i : Instr),
    (i = .tblInit ∨ (∃ a, i = .crcSeed a) ∨ (∃ b, i = .crcByte b) ∨
      ∃ seed data, i = .crcCompute seed data) →
    ∃ t, exec i s = .next t ∧ t.status = s.status ∧ t.cur = s.cur ∧ t.errOff = s.errOff ∧
      t.mode = s.mode ∧ t.res = s.res ∧ t.buf = s.buf ∧ t.pending = s.pending ∧
      t.fresh = s.fresh

/-- R91, R92: the spot values of both tables. -/
def Obligations.TableSpotValues : Prop :=
  tblEntry .lsbFirst 0 = 0x0000 ∧ tblEntry .lsbFirst 1 = 0x1189 ∧
    tblEntry .lsbFirst 2 = 0x2312 ∧ tblEntry .lsbFirst 128 = 0x8408 ∧
    tblEntry .lsbFirst 135 = 0xF0B7 ∧ tblEntry .lsbFirst 255 = 0x0F78 ∧
    tblEntry .msbFirst 0 = 0x0000 ∧ tblEntry .msbFirst 1 = 0x1021 ∧
    tblEntry .msbFirst 2 = 0x2042 ∧ tblEntry .msbFirst 128 = 0x9188 ∧
    tblEntry .msbFirst 255 = 0x1EF0

/-- R92: the two tables are bit-reversals of each other. -/
def Obligations.TablesAreBitReversals : Prop :=
  ∀ i : Byte, tblEntry .lsbFirst i.reverse = (tblEntry .msbFirst i).reverse

/-- R102: in both variants the table update equals eight steps of the bit-serial CRC, for every
accumulator and byte. -/
def Obligations.TableUpdateIsBitSerial : Prop :=
  ∀ (a : U16) (b : Byte),
    upd .lsbFirst (builtTbl .lsbFirst) a b =
        eightTimes (fun c => if c.getLsbD 0 then (c >>> 1) ^^^ 0x8408 else c >>> 1)
          (a ^^^ b.setWidth 16) ∧
      upd .msbFirst (builtTbl .msbFirst) a b =
        eightTimes (fun c => if c.getLsbD 15 then (c <<< 1) ^^^ 0x1021 else c <<< 1)
          (a ^^^ (b.setWidth 16 <<< 8))

/-- R100: appending the complemented CRC, low byte first, leaves the residue 0xF0B8, whatever the
message and the seed. -/
def Obligations.ResidueIsConstant : Prop :=
  ∀ (seed c : U16) (m : List Byte),
    c = crc .lsbFirst (builtTbl .lsbFirst) seed m ^^^ 0xFFFF →
      crc .lsbFirst (builtTbl .lsbFirst) seed
          (m ++ [c.extractLsb' 0 8, c.extractLsb' 8 8]) = 0xF0B8 ∧
        (0xF0B8 : U16) ^^^ 0xFFFF = 0x0F47

/-- 95_test_vectors.md, Program 1, last variation: changing any single byte changes the CRC. -/
def Obligations.CrcDetectsOneByteChange : Prop :=
  ∀ (seed : U16) (x y : List Byte) (b b' : Byte), b ≠ b' →
    crc .lsbFirst (builtTbl .lsbFirst) seed (x ++ b :: y) ≠
      crc .lsbFirst (builtTbl .lsbFirst) seed (x ++ b' :: y)

/-! ## Steps -/

/-- A busy step past the header runs the decoded record, then advances by its own length (R117,
R119, R120; that `CUR` ≠ 0 says "past the header" is inferred, log 12). -/
def Obligations.StepRunsDecodedRecord : Prop :=
  ∀ (s : State) (h : List Byte) (i : Instr) (n : U32), s.status = .busy → s.cur ≠ 0 →
    s.buf.memRead s.cur 6 = some h → decode .tlv h = .ok i → i.recordLen? = some n →
    s.cur + 6 + n.toNat ≤ s.buf.len →
      (∀ t, exec i s = .next t → step s = .next { t with cur := t.cur + 6 + n.toNat }) ∧
        (∀ r, exec i s = .fault r → step s = .fault r) ∧
        ∀ r, exec i s = .refused r → step s = .refused r

/-- A busy step at offset 0 runs the header (R110, R171; that offset 0 says "header not yet accepted"
is inferred, log 12). -/
def Obligations.StepRunsHeaderAtOffsetZero : Prop :=
  ∀ s : State, s.status = .busy → s.cur = 0 → step s = exec .sof s

/-- When no PARSE runs, a step issues the oldest pending operation of the host, and with none it
changes nothing (R10; the queue and the idle step are the model's, log 2). -/
def Obligations.StepRunsHostOperation : Prop :=
  ∀ s : State, s.status ≠ .busy →
    (∀ op ops, s.pending = op :: ops → step s = exec op.instr { s with pending := ops }) ∧
      (s.pending = [] → step s = .next s)

/-- R116, R118 with R121: both bounds checks of a record step raise TruncatedRecord at the cursor,
without wrap-around, and change nothing else. The tag plays no part. `CUR` ≠ 0 stands for an
accepted header (log 12). -/
def Obligations.RecordBoundsChecksRaise : Prop :=
  ∀ s : State, s.status = .busy → s.cur ≠ 0 → s.cur < s.buf.len →
    (s.buf.len < s.cur + 6 →
      step s = .next { s with errOff := s.cur, status := .errTrunc }) ∧
    (∀ t0 t1 l0 l1 l2 l3, s.buf.memRead s.cur 6 = some [t0, t1, l0, l1, l2, l3] →
      s.buf.len < s.cur + 6 + (le32 l0 l1 l2 l3).toNat →
      step s = .next { s with errOff := s.cur, status := .errTrunc })

/-- R122: at the end of the buffer the run is OK, and nothing else changes. That this is a step of its
own is the model's choice (log 13); `CUR` ≠ 0 stands for an accepted header (log 12). -/
def Obligations.StepCompletesAtBufferEnd : Prop :=
  ∀ s : State, s.status = .busy → s.cur ≠ 0 → s.cur = s.buf.len →
    step s = .next { s with status := .ok }

/-- R10: no host operation falls between two steps of a PARSE: while one runs, a step neither reads
nor changes what the host has pending. -/
def Obligations.BusyStepIgnoresPending : Prop :=
  ∀ (s t : State) (ops : List HostOp), s.status = .busy → step s = .next t →
    step { s with pending := ops } = .next { t with pending := ops } ∧ t.pending = s.pending

/-- R182, R52: from every state whose buffer has the canonical form a step has a next state; in
particular no step reads at or beyond `LEN`. -/
def Obligations.StepNeverReadsOutside : Prop :=
  ∀ s : State, s.buf.wf = true → ∃ t, step s = .next t

/-- R159, R160: a busy step that ends in an error leaves `CUR`, the result, the mode, the table, the
accumulator and the buffer as they were; TruncatedRecord saves the cursor of a record, or 0 for the
header, and FormatMismatch saves nothing. -/
def Obligations.ErrorsArePrecise : Prop :=
  ∀ s t : State, s.status = .busy → step s = .next t →
    (t.status = .errFormat → s.cur = 0 ∧ t = { s with status := .errFormat }) ∧
      (t.status = .errTrunc → t = { s with errOff := s.cur, status := .errTrunc })

/-- R123: every busy step that leaves the run going moves the cursor at least 6 bytes on and keeps it
inside the buffer. -/
def Obligations.RunningStepAdvances : Prop :=
  ∀ s t : State, s.status = .busy → step s = .next t → t.status = .busy →
    s.cur + 6 ≤ t.cur ∧ t.cur ≤ t.buf.len

/-- R180: a step of a PARSE touches `ACC` or the table only for a CRC16 record of at least two
payload bytes. -/
def Obligations.OnlyCrc16TouchesTheEngine : Prop :=
  ∀ s t : State, s.status = .busy → step s = .next t →
    (s.cur ≠ 0 → ∀ t0 t1 l0 l1 l2 l3,
      s.buf.memRead s.cur 6 = some [t0, t1, l0, l1, l2, l3] →
      le16 t0 t1 ≠ 8 ∨ (le32 l0 l1 l2 l3).toNat < 2) →
      t.acc = s.acc ∧ t.tbl = s.tbl ∧ t.tblValid = s.tblValid

/-- R31, R155: no flag, result register or comparison mode steers the parse: with another result and
another mode a busy step goes to the same cursor, status and error offset. -/
def Obligations.ResultsNeverSteer : Prop :=
  ∀ (s t : State) (r : Result) (mode : CrcMode), s.status = .busy → step s = .next t →
    ∃ u, step { s with res := r, mode := mode } = .next u ∧
      u.cur = t.cur ∧ u.status = t.status ∧ u.errOff = t.errOff

/-- R11, R127: a busy step's parser registers depend on nothing but the parser registers, the mode
and the buffer: two machines that agree on those still agree after a step, whatever their
accumulators, tables (built or not) and pending operations. -/
def Obligations.ParseIgnoresHistory : Prop :=
  ∀ s s' t : State, TblInv s → TblInv s' → s.status = .busy →
    s'.status = s.status → s'.cur = s.cur → s'.errOff = s.errOff → s'.mode = s.mode →
    s'.res = s.res → s'.buf = s.buf → step s = .next t →
    ∃ t', step s' = .next t' ∧ t'.status = t.status ∧ t'.cur = t.cur ∧ t'.errOff = t.errOff ∧
      t'.mode = t.mode ∧ t'.res = t.res ∧ t'.buf = t.buf

/-- R51: no instruction writes the buffer: every byte reads as before and `LEN` stays. PARSE is given
its buffer, and that is what it reads: byte `a` of its operand at offset `a`. -/
def Obligations.BufferIsNeverWritten : Prop :=
  ∀ (i : Instr) (s t : State), exec i s = .next t →
    ((∀ bs mode, i ≠ .parse bs mode) →
      t.buf.len = s.buf.len ∧ ∀ a, t.buf.readByte a = s.buf.readByte a) ∧
    (∀ bs mode, i = .parse bs mode →
      t.buf.len = bs.length ∧ ∀ a, t.buf.readByte a = bs[a]?)

/-! ## Whole runs -/

/-- R111: PARSE completes its start step in every state; `TBL`, `TBL_VALID` and `ACC` are not
changed. The buffer becomes the operand (log 4). -/
def Obligations.ParseStarts : Prop :=
  ∀ (s : State) (bs : List Byte) (mode : CrcMode),
    exec (.parse bs mode) s = .next { s with
      status := .busy
      mode := mode
      cur := 0
      errOff := 0
      res := Result.empty
      buf := Memory.ofBytes bs }

/-- R110, R123, R127: from its start every PARSE reaches, within the bound of R123 on the number of
steps, the end that the pure function `refParse` of the buffer and the mode gives; until then it is
busy, and it leaves the host's operations, the mode and the buffer alone. `ACC` ends as the raw CRC
of the whole buffer, with the table built, when a CRC16 record with n >= 2 was met (R101, R127), and
else both are as before the PARSE (R180). The bound counts the model's steps: the header, the records
of R123, and the step that raises or completes (log 13). -/
def Obligations.ParseRunsToItsEnd : Prop :=
  ∀ (s : State) (bs : List Byte) (mode : CrcMode), TblInv s →
    ∃ s1 k t, exec (.parse bs mode) s = .next s1 ∧ k ≤ (bs.length - 16) / 6 + 2 ∧
      Host.Core.run core k s1 = .next t ∧ t.parseEnd = refParse mode bs ∧
      t.status.terminal = true ∧ t.mode = mode ∧ t.buf = Memory.ofBytes bs ∧
      t.pending = s.pending ∧
      (if t.res.crcSeen then
        t.acc = crc .lsbFirst (builtTbl .lsbFirst) 0xFFFF bs ∧
          t.tbl = builtTbl .lsbFirst ∧ t.tblValid = true
      else t.acc = s.acc ∧ t.tbl = s.tbl ∧ t.tblValid = s.tblValid) ∧
      ∀ j < k, ∃ u, Host.Core.run core j s1 = .next u ∧ u.status = .busy

/-- R152: whatever follows, a buffer that does not begin with the magic ends in FormatMismatch with
the empty result. -/
def Obligations.AlteredMagicFails : Prop :=
  ∀ (s : State) (bs : List Byte) (mode : CrcMode), bs.take 4 ≠ [0x53, 0x4F, 0x46, 0x00] →
    ∃ s1, exec (.parse bs mode) s = .next s1 ∧
      step s1 = .next { s1 with status := .errFormat } ∧ s1.cur = 0 ∧ s1.errOff = 0 ∧
      s1.res = Result.empty ∧ s1.tbl = s.tbl ∧ s1.tblValid = s.tblValid ∧ s1.acc = s.acc

/-- R124: a header alone, whatever its 12 reserved bytes, is a valid empty parse: two steps after the
start the run is OK with the empty result and an untouched accumulator. Two, since the completion is
a step of its own in the model: log 13. -/
def Obligations.EmptyStreamParses : Prop :=
  ∀ (s : State) (reserved : List Byte) (mode : CrcMode), reserved.length = 12 →
    ∃ s1, exec (.parse ([0x53, 0x4F, 0x46, 0x00] ++ reserved) mode) s = .next s1 ∧
      Host.Core.run core 2 s1 = .next { s1 with cur := 16, status := .ok } ∧
      s1.res = Result.empty ∧ s1.acc = s.acc

/-- R134, round trip: a buffer whose only BITSTREAM record has payload `p`, of any length the length
field holds, with any other records before and after it, ends OK with a slice that reads back `p`. One
step for the header, one per record and one for the completion (log 13). -/
def Obligations.BitstreamRoundTrips : Prop :=
  ∀ (s : State) (reserved p : List Byte) (before after : List (U16 × List Byte)) (mode : CrcMode),
    reserved.length = 12 → p.length < 2 ^ 32 →
    (∀ r ∈ before ++ after, r.1 ≠ 17 ∧ r.2.length < 2 ^ 32) →
    ∃ s1 t,
      exec (.parse (encodeHeader reserved ++
        (before ++ (17, p) :: after).flatMap fun r => recBytes r.1 r.2) mode) s = .next s1 ∧
      Host.Core.run core (before.length + after.length + 3) s1 = .next t ∧ t.status = .ok ∧
      t.res.bs.seen = true ∧ t.res.bs.len.toNat = p.length ∧
      t.buf.memRead t.res.bs.off t.res.bs.len.toNat = some p

/-- R85: a stream of a header, any records whatever and a trailing `CRC16 auto` validates in `CONST`
mode: the run ends OK with `CRC_COMPUTED` = 0x0F47 and `CRC_VALID` = 1. -/
def Obligations.AutoStreamValidates : Prop :=
  ∀ (s : State) (reserved : List Byte) (records : List (U16 × List Byte)), TblInv s →
    reserved.length = 12 → (∀ r ∈ records, r.2.length < 2 ^ 32) →
    ∃ s1 k t,
      exec (.parse (assemble .lsbFirst
        (.sof reserved :: records.map (fun r => .record r.1 r.2) ++ [.crc16Auto])) .const) s =
          .next s1 ∧
      Host.Core.run core k s1 = .next t ∧ t.status = .ok ∧ t.res.crcSeen = true ∧
      t.res.crcComputed = 0x0F47 ∧ t.res.crcValid = true

/-! ## The invariant -/

/-- Every step keeps the invariant: the buffer's canonical form, the built table, where the cursor
stands in each status, the bounds of every slice, and what the CRC and package registers hold (R22,
R26, R27, R32, R35, R39, R126). -/
def Obligations.EveryStepKeepsInvariant : Prop :=
  ∀ s t : State, Invariant s → step s = .next t → Invariant t

/-- The invariant holds right after reset. -/
def Obligations.ResetMeetsInvariant : Prop := Invariant State.reset

/-! ## What the host reads -/

/-- R36, R179: under `BUSY` the host reads nothing; else it reads every register but the entries of
`TBL` (R53; log 23), and the result registers are a ParseResult only under `OK`. -/
def Obligations.HostReadsRegistersBetweenOperations : Prop :=
  ∀ s : State,
    (s.status = .busy → s.hostView = none) ∧
    (s.status ≠ .busy → s.hostView = some {
      tblValid := s.tblValid, acc := s.acc, mode := s.mode, status := s.status
      errOff := s.errOff, cur := s.cur, res := s.res }) ∧
    s.parseResult = if s.status = .ok then some s.res else none
end

