-- ==== Sys2Proof/Laws/Crc.lean ====
section
/-! SUPPORT. The CRC engine: what the built table holds, and what the shared operations leave when the
state's table is the built one. -/

namespace Sys2Proof.Machine

/-- Entry `i` of a table given by its entries. -/
theorem tblRead_tableOf (f : Nat → U16) (i : Byte) : tblRead (tableOf f) i = f i.toNat := by
  simp [tblRead, tableOf]

/-- Every entry of the built table is the defined one (R91, R92, R93). -/
@[simp] theorem tblRead_builtTbl (v : CrcVariant) (i : Byte) :
    tblRead (builtTbl v) i = tblEntry v i := by
  simp [builtTbl, tblRead_tableOf]

/-- After `RESET` every entry of the table is its free value (R170). -/
@[simp] theorem tblRead_freeTable (k : Nat) (i : Byte) :
    tblRead (freeTable k) i = Config.freeTbl k i.toNat :=
  tblRead_tableOf _ i

/-- The update over the built table, in the variant's own terms (R96, R97). -/
theorem upd_builtTbl (v : CrcVariant) (a : U16) (b : Byte) :
    upd v (builtTbl v) a b = shiftByte v a ^^^ tblEntry v (tblIndex v a b) := by
  simp [upd]

@[simp] theorem crc_nil (v : CrcVariant) (t : Table) (s : U16) : crc v t s [] = s := rfl

@[simp] theorem crc_cons (v : CrcVariant) (t : Table) (s : U16) (b : Byte) (d : List Byte) :
    crc v t s (b :: d) = crc v t (upd v t s b) d := rfl

/-- Where the table is built or not valid yet, the engine uses the built one (R94). -/
theorem State.ensureTbl_tbl {s : State}
    (h : s.tblValid = true → s.tbl = builtTbl Config.crcVariant) :
    s.ensureTbl.tbl = builtTbl Config.crcVariant := by
  unfold State.ensureTbl
  split
  · exact h ‹_›
  · rfl

/-- Building a table that is already right changes nothing but `TBL_VALID` (R93, R94). -/
theorem State.ensureTbl_eq_buildTbl {s : State}
    (h : s.tblValid = true → s.tbl = builtTbl Config.crcVariant) :
    s.ensureTbl = s.buildTbl := by
  unfold State.ensureTbl
  split
  · next hv =>
    obtain ⟨t, v, _, _, _, _, _, _, _, _, _⟩ := s
    simp only at hv h
    subst hv
    rw [h rfl]
    rfl
  · rfl

end Sys2Proof.Machine
end

