-- ==== Sys2Proof/Laws/Decode.lean ====
section
/-! SUPPORT. Byte order there and back, and what the tag map answers. -/

namespace Sys2Proof

/-- Bytes of a `u16`, read again (R5). -/
theorem le16_extract (v : U16) : le16 (v.extractLsb' 0 8) (v.extractLsb' 8 8) = v := by
  apply BitVec.eq_of_getLsbD_eq
  intro i hi
  simp only [le16, BitVec.getLsbD_append, BitVec.getLsbD_extractLsb']
  by_cases h : i < 8
  · simp [h]
  · simp [h, show i - 8 < 8 by omega, show 8 + (i - 8) = i by omega]

/-- Bytes of a `u32`, read again (R6). -/
theorem le32_extract (v : U32) :
    le32 (v.extractLsb' 0 8) (v.extractLsb' 8 8) (v.extractLsb' 16 8) (v.extractLsb' 24 8) = v := by
  apply BitVec.eq_of_getLsbD_eq
  intro i hi
  simp only [le32, BitVec.getLsbD_append, BitVec.getLsbD_extractLsb']
  by_cases h : i < 8
  · simp [h]
  · by_cases h1 : i < 16
    · simp [h, show i - 8 < 8 by omega, show 8 + (i - 8) = i by omega]
    · by_cases h2 : i < 24
      · simp [h, show ¬ i - 8 < 8 by omega, show i - 8 - 8 < 8 by omega,
          show 16 + (i - 8 - 8) = i by omega]
      · simp [h, show ¬ i - 8 < 8 by omega, show ¬ i - 8 - 8 < 8 by omega,
          show i - 8 - 8 - 8 < 8 by omega, show 24 + (i - 8 - 8 - 8) = i by omega]

/-- The low and the high byte of a two-byte number. -/
@[simp] theorem extract_le16_low (b0 b1 : Byte) : (le16 b0 b1).extractLsb' 0 8 = b0 := by
  apply BitVec.eq_of_getLsbD_eq
  intro i hi
  simp only [le16, BitVec.getLsbD_extractLsb', BitVec.getLsbD_append, hi, Nat.zero_add, if_true,
    decide_true, Bool.true_and]

@[simp] theorem extract_le16_high (b0 b1 : Byte) : (le16 b0 b1).extractLsb' 8 8 = b1 := by
  apply BitVec.eq_of_getLsbD_eq
  intro i hi
  simp only [le16, BitVec.getLsbD_extractLsb', BitVec.getLsbD_append, hi,
    show ¬ 8 + i < 8 by omega, if_false, decide_true, Bool.true_and, Nat.add_sub_cancel_left]

/-- The four bytes of a four-byte number. -/
theorem bytesLE32_le32 (b0 b1 b2 b3 : Byte) : bytesLE32 (le32 b0 b1 b2 b3) = [b0, b1, b2, b3] := by
  simp only [bytesLE32, le32, List.cons.injEq, and_true]
  refine ⟨?_, ?_, ?_, ?_⟩ <;>
  · apply BitVec.eq_of_getLsbD_eq
    intro i hi
    simp only [BitVec.getLsbD_extractLsb', BitVec.getLsbD_append, hi, decide_true, Bool.true_and]
    grind

theorem bytesLE16_le16 (b0 b1 : Byte) : bytesLE16 (le16 b0 b1) = [b0, b1] := by
  simp [bytesLE16]

/-- The length of a record's encoding (R72). -/
@[simp] theorem encodeRecordHeader_length (tag : U16) (n : U32) :
    (encodeRecordHeader tag n).length = 6 := rfl

/-- A record keeps the length it was read with (R117). -/
@[simp] theorem recordOf_recordLen? (tag : U16) (n : U32) :
    (recordOf tag n).recordLen? = some n := by
  unfold recordOf
  repeat' split
  all_goals rfl

/-- A record keeps the tag it was read with (R119). -/
@[simp] theorem recordOf_tag? (tag : U16) (n : U32) : (recordOf tag n).tag? = some tag := by
  unfold recordOf
  repeat' split
  all_goals simp_all [Instr.tag?]

/-- Every record is of format TLV. -/
@[simp] theorem recordOf_format? (tag : U16) (n : U32) :
    (recordOf tag n).format? = some .tlv := by
  unfold recordOf
  repeat' split
  all_goals rfl

/-- Six bytes or more decode to a record; fewer are refused by name (R116, R117). -/
theorem decodeRecord_six (t0 t1 l0 l1 l2 l3 : Byte) (rest : List Byte) :
    decodeRecord (t0 :: t1 :: l0 :: l1 :: l2 :: l3 :: rest) =
      .ok (recordOf (le16 t0 t1) (le32 l0 l1 l2 l3)) := rfl

end Sys2Proof
end

