-- ==== Sys2Proof/Laws/Memory.lean ====
section
/-! SUPPORT. The buffer: the canonical form, and what a read answers. -/

namespace Sys2Proof.Machine

theorem Memory.cellsFrom_keys (off : Nat) (bs : List Byte) :
    (Memory.cellsFrom off bs).map Prod.fst = List.range' off bs.length := by
  induction bs generalizing off with
  | nil => rfl
  | cons b bs ih => simp [Memory.cellsFrom, ih, List.range'_succ]

theorem Memory.cellsFrom_bytes (off : Nat) (bs : List Byte) :
    (Memory.cellsFrom off bs).map Prod.snd = bs := by
  induction bs generalizing off with
  | nil => rfl
  | cons b bs ih => simp [Memory.cellsFrom, ih]

@[simp] theorem Memory.cellsFrom_length (off : Nat) (bs : List Byte) :
    (Memory.cellsFrom off bs).length = bs.length := by
  simpa using congrArg List.length (Memory.cellsFrom_keys off bs)

@[simp] theorem Memory.len_ofBytes (bs : List Byte) : (Memory.ofBytes bs).len = bs.length :=
  Memory.cellsFrom_length 0 bs

@[simp] theorem Memory.bytes_ofBytes (bs : List Byte) : (Memory.ofBytes bs).bytes = bs :=
  Memory.cellsFrom_bytes 0 bs

@[simp] theorem Memory.length_bytes (m : Memory) : m.bytes.length = m.len := by
  simp [Memory.bytes, Memory.len]

/-- A lent buffer has the canonical form. -/
@[simp] theorem Memory.ofBytes_wf (bs : List Byte) : (Memory.ofBytes bs).wf = true := by
  simp [Memory.wf, Memory.ofBytes, Memory.cellsFrom_keys, List.range_eq_range']

theorem Memory.eq_cellsFrom (m : Memory) (off : Nat)
    (h : m.map Prod.fst = List.range' off m.length) : m = Memory.cellsFrom off m.bytes := by
  induction m generalizing off with
  | nil => rfl
  | cons c m ih =>
    simp only [List.map_cons, List.length_cons, List.range'_succ, List.cons.injEq] at h
    obtain ⟨k, b⟩ := c
    obtain ⟨rfl, h⟩ := h
    simpa [Memory.cellsFrom, Memory.bytes] using ih _ h

/-- The canonical form is a function of the bytes: equal bytes, equal buffers. -/
theorem Memory.eq_ofBytes {m : Memory} (h : m.wf = true) : m = Memory.ofBytes m.bytes :=
  Memory.eq_cellsFrom m 0 (by rw [← List.range_eq_range']; simpa [Memory.wf] using h)

theorem Memory.lookup_cellsFrom (off a : Nat) (bs : List Byte) :
    List.lookup a (Memory.cellsFrom off bs) = if off ≤ a then bs[a - off]? else none := by
  induction bs generalizing off with
  | nil => simp [Memory.cellsFrom]
  | cons b bs ih =>
    simp only [Memory.cellsFrom, List.lookup]
    rcases Nat.lt_trichotomy a off with h | rfl | h
    · have h1 : (a == off) = false := by simp; omega
      simp only [h1, ih]
      rw [if_neg (by omega), if_neg (by omega)]
    · simp
    · have h1 : (a == off) = false := by simp; omega
      have h2 : a - off = (a - (off + 1)) + 1 := by omega
      simp only [h1, ih]
      rw [if_pos (by omega), if_pos (by omega), h2, List.getElem?_cons_succ]

/-- Byte `a` of a lent buffer; none where the offset does not exist. -/
@[simp] theorem Memory.readByte_ofBytes (bs : List Byte) (a : Nat) :
    (Memory.ofBytes bs).readByte a = bs[a]? := by
  simp [Memory.readByte, Memory.ofBytes, Memory.lookup_cellsFrom]

theorem Memory.readByte_of_wf {m : Memory} (h : m.wf = true) (a : Nat) :
    m.readByte a = m.bytes[a]? := by
  conv_lhs => rw [Memory.eq_ofBytes h]
  exact Memory.readByte_ofBytes _ _

theorem Memory.gather_ofBytes (bs : List Byte) (n addr : Nat) (h : addr + n ≤ bs.length) :
    (Memory.ofBytes bs).gather addr n = some ((bs.drop addr).take n) := by
  induction n generalizing addr with
  | zero => simp [Memory.gather]
  | succ n ih =>
    have ha : addr < bs.length := by omega
    rw [List.drop_eq_getElem_cons ha]
    simp only [Memory.gather, ih (addr + 1) (by omega), Memory.readByte_ofBytes,
      List.getElem?_eq_getElem ha, List.take_succ_cons]

/-- `MemRead` of a lent buffer (R52). -/
theorem Memory.memRead_ofBytes (bs : List Byte) (addr n : Nat) :
    (Memory.ofBytes bs).memRead addr n =
      if addr + n ≤ bs.length then some ((bs.drop addr).take n) else none := by
  unfold Memory.memRead
  rw [Memory.len_ofBytes]
  split
  · exact Memory.gather_ofBytes _ _ _ ‹_›
  · rfl

/-- What `MemRead` answers on a canonical buffer: the bytes, exactly where `addr + n <= LEN` (R52). -/
theorem Memory.memRead_of_wf {m : Memory} (h : m.wf = true) (addr n : Nat) :
    m.memRead addr n =
      if addr + n ≤ m.len then some ((m.bytes.drop addr).take n) else none := by
  conv_lhs => rw [Memory.eq_ofBytes h]
  simp [Memory.memRead_ofBytes]

/-- A `MemRead` that has a value has `n` bytes and stays inside the buffer (R52, R182). -/
theorem Memory.memRead_bounds {m : Memory} {addr n : Nat} {bs : List Byte}
    (h : m.memRead addr n = some bs) : addr + n ≤ m.len := by
  unfold Memory.memRead at h
  split at h
  · assumption
  · cases h

theorem Memory.gather_length {m : Memory} {n addr : Nat} {bs : List Byte}
    (h : m.gather addr n = some bs) : bs.length = n := by
  induction n generalizing addr bs with
  | zero => simp [Memory.gather] at h; simp [← h]
  | succ n ih =>
    simp only [Memory.gather] at h
    split at h
    · cases h; simp [ih ‹_›]
    · cases h

theorem Memory.memRead_length {m : Memory} {n addr : Nat} {bs : List Byte}
    (h : m.memRead addr n = some bs) : bs.length = n := by
  unfold Memory.memRead at h
  split at h
  · exact Memory.gather_length h
  · cases h

/-- Two bytes of a canonical buffer. -/
theorem Memory.memRead_two {m : Memory} (h : m.wf = true) {addr : Nat} (hl : addr + 2 ≤ m.len) :
    ∃ b0 b1, m.memRead addr 2 = some [b0, b1] := by
  rw [Memory.memRead_of_wf h, if_pos hl]
  have hb : addr + 2 ≤ m.bytes.length := by simpa using hl
  rw [List.drop_eq_getElem_cons (by omega), List.drop_eq_getElem_cons (by omega)]
  exact ⟨_, _, rfl⟩

/-- Four bytes of a canonical buffer. -/
theorem Memory.memRead_four {m : Memory} (h : m.wf = true) {addr : Nat} (hl : addr + 4 ≤ m.len) :
    ∃ b0 b1 b2 b3, m.memRead addr 4 = some [b0, b1, b2, b3] := by
  rw [Memory.memRead_of_wf h, if_pos hl]
  have hb : addr + 4 ≤ m.bytes.length := by simpa using hl
  rw [List.drop_eq_getElem_cons (by omega), List.drop_eq_getElem_cons (by omega),
    List.drop_eq_getElem_cons (by omega), List.drop_eq_getElem_cons (by omega)]
  exact ⟨_, _, _, _, rfl⟩

/-- Six bytes of a canonical buffer: a record's tag and length. -/
theorem Memory.memRead_six {m : Memory} (h : m.wf = true) {addr : Nat} (hl : addr + 6 ≤ m.len) :
    ∃ b0 b1 b2 b3 b4 b5, m.memRead addr 6 = some [b0, b1, b2, b3, b4, b5] := by
  rw [Memory.memRead_of_wf h, if_pos hl]
  have hb : addr + 6 ≤ m.bytes.length := by simpa using hl
  rw [List.drop_eq_getElem_cons (by omega), List.drop_eq_getElem_cons (by omega),
    List.drop_eq_getElem_cons (by omega), List.drop_eq_getElem_cons (by omega),
    List.drop_eq_getElem_cons (by omega), List.drop_eq_getElem_cons (by omega)]
  exact ⟨_, _, _, _, _, _, rfl⟩

end Sys2Proof.Machine
end

