-- ==== Sys2Proof/Laws/State.lean ====
section
/-! SUPPORT. What each state update leaves in each field: true by rfl, so that no later proof unfolds
a record update. -/

namespace Sys2Proof.Machine

/-! ## raiseFormat -/

@[simp] theorem State.raiseFormat_tbl (s : State) :
    (s.raise .formatMismatch).tbl = s.tbl := rfl
@[simp] theorem State.raiseFormat_tblValid (s : State) :
    (s.raise .formatMismatch).tblValid = s.tblValid := rfl
@[simp] theorem State.raiseFormat_acc (s : State) :
    (s.raise .formatMismatch).acc = s.acc := rfl
@[simp] theorem State.raiseFormat_mode (s : State) :
    (s.raise .formatMismatch).mode = s.mode := rfl
@[simp] theorem State.raiseFormat_status (s : State) :
    (s.raise .formatMismatch).status = .errFormat := rfl
@[simp] theorem State.raiseFormat_errOff (s : State) :
    (s.raise .formatMismatch).errOff = s.errOff := rfl
@[simp] theorem State.raiseFormat_cur (s : State) :
    (s.raise .formatMismatch).cur = s.cur := rfl
@[simp] theorem State.raiseFormat_res (s : State) :
    (s.raise .formatMismatch).res = s.res := rfl
@[simp] theorem State.raiseFormat_buf (s : State) :
    (s.raise .formatMismatch).buf = s.buf := rfl
@[simp] theorem State.raiseFormat_pending (s : State) :
    (s.raise .formatMismatch).pending = s.pending := rfl
@[simp] theorem State.raiseFormat_fresh (s : State) :
    (s.raise .formatMismatch).fresh = s.fresh := rfl

/-! ## raiseTruncated -/

@[simp] theorem State.raiseTruncated_tbl (off : Nat) (s : State) :
    (s.raise (.truncatedRecord off)).tbl = s.tbl := rfl
@[simp] theorem State.raiseTruncated_tblValid (off : Nat) (s : State) :
    (s.raise (.truncatedRecord off)).tblValid = s.tblValid := rfl
@[simp] theorem State.raiseTruncated_acc (off : Nat) (s : State) :
    (s.raise (.truncatedRecord off)).acc = s.acc := rfl
@[simp] theorem State.raiseTruncated_mode (off : Nat) (s : State) :
    (s.raise (.truncatedRecord off)).mode = s.mode := rfl
@[simp] theorem State.raiseTruncated_status (off : Nat) (s : State) :
    (s.raise (.truncatedRecord off)).status = .errTrunc := rfl
@[simp] theorem State.raiseTruncated_errOff (off : Nat) (s : State) :
    (s.raise (.truncatedRecord off)).errOff = off := rfl
@[simp] theorem State.raiseTruncated_cur (off : Nat) (s : State) :
    (s.raise (.truncatedRecord off)).cur = s.cur := rfl
@[simp] theorem State.raiseTruncated_res (off : Nat) (s : State) :
    (s.raise (.truncatedRecord off)).res = s.res := rfl
@[simp] theorem State.raiseTruncated_buf (off : Nat) (s : State) :
    (s.raise (.truncatedRecord off)).buf = s.buf := rfl
@[simp] theorem State.raiseTruncated_pending (off : Nat) (s : State) :
    (s.raise (.truncatedRecord off)).pending = s.pending := rfl
@[simp] theorem State.raiseTruncated_fresh (off : Nat) (s : State) :
    (s.raise (.truncatedRecord off)).fresh = s.fresh := rfl

/-! ## start -/

@[simp] theorem State.start_tbl (bs : List Byte) (mode : CrcMode) (s : State) :
    (s.start bs mode).tbl = s.tbl := rfl
@[simp] theorem State.start_tblValid (bs : List Byte) (mode : CrcMode) (s : State) :
    (s.start bs mode).tblValid = s.tblValid := rfl
@[simp] theorem State.start_acc (bs : List Byte) (mode : CrcMode) (s : State) :
    (s.start bs mode).acc = s.acc := rfl
@[simp] theorem State.start_mode (bs : List Byte) (mode : CrcMode) (s : State) :
    (s.start bs mode).mode = mode := rfl
@[simp] theorem State.start_status (bs : List Byte) (mode : CrcMode) (s : State) :
    (s.start bs mode).status = .busy := rfl
@[simp] theorem State.start_errOff (bs : List Byte) (mode : CrcMode) (s : State) :
    (s.start bs mode).errOff = 0 := rfl
@[simp] theorem State.start_cur (bs : List Byte) (mode : CrcMode) (s : State) :
    (s.start bs mode).cur = 0 := rfl
@[simp] theorem State.start_res (bs : List Byte) (mode : CrcMode) (s : State) :
    (s.start bs mode).res = .empty := rfl
@[simp] theorem State.start_buf (bs : List Byte) (mode : CrcMode) (s : State) :
    (s.start bs mode).buf = .ofBytes bs := rfl
@[simp] theorem State.start_pending (bs : List Byte) (mode : CrcMode) (s : State) :
    (s.start bs mode).pending = s.pending := rfl
@[simp] theorem State.start_fresh (bs : List Byte) (mode : CrcMode) (s : State) :
    (s.start bs mode).fresh = s.fresh := rfl

/-! ## acceptHeader -/

@[simp] theorem State.acceptHeader_tbl (s : State) :
    (s.acceptHeader).tbl = s.tbl := rfl
@[simp] theorem State.acceptHeader_tblValid (s : State) :
    (s.acceptHeader).tblValid = s.tblValid := rfl
@[simp] theorem State.acceptHeader_acc (s : State) :
    (s.acceptHeader).acc = s.acc := rfl
@[simp] theorem State.acceptHeader_mode (s : State) :
    (s.acceptHeader).mode = s.mode := rfl
@[simp] theorem State.acceptHeader_status (s : State) :
    (s.acceptHeader).status = s.status := rfl
@[simp] theorem State.acceptHeader_errOff (s : State) :
    (s.acceptHeader).errOff = s.errOff := rfl
@[simp] theorem State.acceptHeader_cur (s : State) :
    (s.acceptHeader).cur = Config.hdrLen := rfl
@[simp] theorem State.acceptHeader_res (s : State) :
    (s.acceptHeader).res = s.res := rfl
@[simp] theorem State.acceptHeader_buf (s : State) :
    (s.acceptHeader).buf = s.buf := rfl
@[simp] theorem State.acceptHeader_pending (s : State) :
    (s.acceptHeader).pending = s.pending := rfl
@[simp] theorem State.acceptHeader_fresh (s : State) :
    (s.acceptHeader).fresh = s.fresh := rfl

/-! ## advance -/

@[simp] theorem State.advance_tbl (n : U32) (s : State) :
    (s.advance n).tbl = s.tbl := rfl
@[simp] theorem State.advance_tblValid (n : U32) (s : State) :
    (s.advance n).tblValid = s.tblValid := rfl
@[simp] theorem State.advance_acc (n : U32) (s : State) :
    (s.advance n).acc = s.acc := rfl
@[simp] theorem State.advance_mode (n : U32) (s : State) :
    (s.advance n).mode = s.mode := rfl
@[simp] theorem State.advance_status (n : U32) (s : State) :
    (s.advance n).status = s.status := rfl
@[simp] theorem State.advance_errOff (n : U32) (s : State) :
    (s.advance n).errOff = s.errOff := rfl
@[simp] theorem State.advance_cur (n : U32) (s : State) :
    (s.advance n).cur = s.cur + Config.recHdrLen + n.toNat := rfl
@[simp] theorem State.advance_res (n : U32) (s : State) :
    (s.advance n).res = s.res := rfl
@[simp] theorem State.advance_buf (n : U32) (s : State) :
    (s.advance n).buf = s.buf := rfl
@[simp] theorem State.advance_pending (n : U32) (s : State) :
    (s.advance n).pending = s.pending := rfl
@[simp] theorem State.advance_fresh (n : U32) (s : State) :
    (s.advance n).fresh = s.fresh := rfl

/-! ## complete -/

@[simp] theorem State.complete_tbl (s : State) :
    (s.complete).tbl = s.tbl := rfl
@[simp] theorem State.complete_tblValid (s : State) :
    (s.complete).tblValid = s.tblValid := rfl
@[simp] theorem State.complete_acc (s : State) :
    (s.complete).acc = s.acc := rfl
@[simp] theorem State.complete_mode (s : State) :
    (s.complete).mode = s.mode := rfl
@[simp] theorem State.complete_status (s : State) :
    (s.complete).status = .ok := rfl
@[simp] theorem State.complete_errOff (s : State) :
    (s.complete).errOff = s.errOff := rfl
@[simp] theorem State.complete_cur (s : State) :
    (s.complete).cur = s.cur := rfl
@[simp] theorem State.complete_res (s : State) :
    (s.complete).res = s.res := rfl
@[simp] theorem State.complete_buf (s : State) :
    (s.complete).buf = s.buf := rfl
@[simp] theorem State.complete_pending (s : State) :
    (s.complete).pending = s.pending := rfl
@[simp] theorem State.complete_fresh (s : State) :
    (s.complete).fresh = s.fresh := rfl

/-! ## setRes -/

@[simp] theorem State.setRes_tbl (r : Result) (s : State) :
    (s.setRes r).tbl = s.tbl := rfl
@[simp] theorem State.setRes_tblValid (r : Result) (s : State) :
    (s.setRes r).tblValid = s.tblValid := rfl
@[simp] theorem State.setRes_acc (r : Result) (s : State) :
    (s.setRes r).acc = s.acc := rfl
@[simp] theorem State.setRes_mode (r : Result) (s : State) :
    (s.setRes r).mode = s.mode := rfl
@[simp] theorem State.setRes_status (r : Result) (s : State) :
    (s.setRes r).status = s.status := rfl
@[simp] theorem State.setRes_errOff (r : Result) (s : State) :
    (s.setRes r).errOff = s.errOff := rfl
@[simp] theorem State.setRes_cur (r : Result) (s : State) :
    (s.setRes r).cur = s.cur := rfl
@[simp] theorem State.setRes_res (r : Result) (s : State) :
    (s.setRes r).res = r := rfl
@[simp] theorem State.setRes_buf (r : Result) (s : State) :
    (s.setRes r).buf = s.buf := rfl
@[simp] theorem State.setRes_pending (r : Result) (s : State) :
    (s.setRes r).pending = s.pending := rfl
@[simp] theorem State.setRes_fresh (r : Result) (s : State) :
    (s.setRes r).fresh = s.fresh := rfl

/-! ## buildTbl -/

@[simp] theorem State.buildTbl_tbl (s : State) :
    (s.buildTbl).tbl = builtTbl Config.crcVariant := rfl
@[simp] theorem State.buildTbl_tblValid (s : State) :
    (s.buildTbl).tblValid = true := rfl
@[simp] theorem State.buildTbl_acc (s : State) :
    (s.buildTbl).acc = s.acc := rfl
@[simp] theorem State.buildTbl_mode (s : State) :
    (s.buildTbl).mode = s.mode := rfl
@[simp] theorem State.buildTbl_status (s : State) :
    (s.buildTbl).status = s.status := rfl
@[simp] theorem State.buildTbl_errOff (s : State) :
    (s.buildTbl).errOff = s.errOff := rfl
@[simp] theorem State.buildTbl_cur (s : State) :
    (s.buildTbl).cur = s.cur := rfl
@[simp] theorem State.buildTbl_res (s : State) :
    (s.buildTbl).res = s.res := rfl
@[simp] theorem State.buildTbl_buf (s : State) :
    (s.buildTbl).buf = s.buf := rfl
@[simp] theorem State.buildTbl_pending (s : State) :
    (s.buildTbl).pending = s.pending := rfl
@[simp] theorem State.buildTbl_fresh (s : State) :
    (s.buildTbl).fresh = s.fresh := rfl

/-! ## setAcc -/

@[simp] theorem State.setAcc_tbl (a : U16) (s : State) :
    (s.setAcc a).tbl = s.tbl := rfl
@[simp] theorem State.setAcc_tblValid (a : U16) (s : State) :
    (s.setAcc a).tblValid = s.tblValid := rfl
@[simp] theorem State.setAcc_acc (a : U16) (s : State) :
    (s.setAcc a).acc = a := rfl
@[simp] theorem State.setAcc_mode (a : U16) (s : State) :
    (s.setAcc a).mode = s.mode := rfl
@[simp] theorem State.setAcc_status (a : U16) (s : State) :
    (s.setAcc a).status = s.status := rfl
@[simp] theorem State.setAcc_errOff (a : U16) (s : State) :
    (s.setAcc a).errOff = s.errOff := rfl
@[simp] theorem State.setAcc_cur (a : U16) (s : State) :
    (s.setAcc a).cur = s.cur := rfl
@[simp] theorem State.setAcc_res (a : U16) (s : State) :
    (s.setAcc a).res = s.res := rfl
@[simp] theorem State.setAcc_buf (a : U16) (s : State) :
    (s.setAcc a).buf = s.buf := rfl
@[simp] theorem State.setAcc_pending (a : U16) (s : State) :
    (s.setAcc a).pending = s.pending := rfl
@[simp] theorem State.setAcc_fresh (a : U16) (s : State) :
    (s.setAcc a).fresh = s.fresh := rfl

/-! ## applyReset -/

@[simp] theorem State.applyReset_tbl (s : State) :
    (s.applyReset).tbl = freeTable s.fresh := rfl
@[simp] theorem State.applyReset_tblValid (s : State) :
    (s.applyReset).tblValid = false := rfl
@[simp] theorem State.applyReset_acc (s : State) :
    (s.applyReset).acc = Config.freeAcc s.fresh := rfl
@[simp] theorem State.applyReset_mode (s : State) :
    (s.applyReset).mode = Config.freeMode s.fresh := rfl
@[simp] theorem State.applyReset_status (s : State) :
    (s.applyReset).status = .idle := rfl
@[simp] theorem State.applyReset_errOff (s : State) :
    (s.applyReset).errOff = 0 := rfl
@[simp] theorem State.applyReset_cur (s : State) :
    (s.applyReset).cur = 0 := rfl
@[simp] theorem State.applyReset_res (s : State) :
    (s.applyReset).res = .empty := rfl
@[simp] theorem State.applyReset_buf (s : State) :
    (s.applyReset).buf = s.buf := rfl
@[simp] theorem State.applyReset_pending (s : State) :
    (s.applyReset).pending = s.pending := rfl
@[simp] theorem State.applyReset_fresh (s : State) :
    (s.applyReset).fresh = s.fresh + 1 := rfl

/-! ## ensureTbl, absorb, crcCheck -/

@[simp] theorem State.ensureTbl_acc (s : State) : s.ensureTbl.acc = s.acc := by
  unfold State.ensureTbl; split
  · rfl
  · rfl
@[simp] theorem State.ensureTbl_mode (s : State) : s.ensureTbl.mode = s.mode := by
  unfold State.ensureTbl; split
  · rfl
  · rfl
@[simp] theorem State.ensureTbl_status (s : State) : s.ensureTbl.status = s.status := by
  unfold State.ensureTbl; split
  · rfl
  · rfl
@[simp] theorem State.ensureTbl_errOff (s : State) : s.ensureTbl.errOff = s.errOff := by
  unfold State.ensureTbl; split
  · rfl
  · rfl
@[simp] theorem State.ensureTbl_cur (s : State) : s.ensureTbl.cur = s.cur := by
  unfold State.ensureTbl; split
  · rfl
  · rfl
@[simp] theorem State.ensureTbl_res (s : State) : s.ensureTbl.res = s.res := by
  unfold State.ensureTbl; split
  · rfl
  · rfl
@[simp] theorem State.ensureTbl_buf (s : State) : s.ensureTbl.buf = s.buf := by
  unfold State.ensureTbl; split
  · rfl
  · rfl
@[simp] theorem State.ensureTbl_pending (s : State) : s.ensureTbl.pending = s.pending := by
  unfold State.ensureTbl; split
  · rfl
  · rfl
@[simp] theorem State.ensureTbl_fresh (s : State) : s.ensureTbl.fresh = s.fresh := by
  unfold State.ensureTbl; split
  · rfl
  · rfl
@[simp] theorem State.ensureTbl_tblValid (s : State) : s.ensureTbl.tblValid = true := by
  unfold State.ensureTbl; split
  · assumption
  · simp

@[simp] theorem State.absorb_tbl (a : U16) (data : List Byte) (s : State) :
    (s.absorb a data).tbl = s.ensureTbl.tbl := by
  simp [State.absorb]
@[simp] theorem State.absorb_tblValid (a : U16) (data : List Byte) (s : State) :
    (s.absorb a data).tblValid = true := by
  simp [State.absorb]
@[simp] theorem State.absorb_acc (a : U16) (data : List Byte) (s : State) :
    (s.absorb a data).acc = crc Config.crcVariant s.ensureTbl.tbl a data := by
  simp [State.absorb]
@[simp] theorem State.absorb_mode (a : U16) (data : List Byte) (s : State) :
    (s.absorb a data).mode = s.mode := by
  simp [State.absorb]
@[simp] theorem State.absorb_status (a : U16) (data : List Byte) (s : State) :
    (s.absorb a data).status = s.status := by
  simp [State.absorb]
@[simp] theorem State.absorb_errOff (a : U16) (data : List Byte) (s : State) :
    (s.absorb a data).errOff = s.errOff := by
  simp [State.absorb]
@[simp] theorem State.absorb_cur (a : U16) (data : List Byte) (s : State) :
    (s.absorb a data).cur = s.cur := by
  simp [State.absorb]
@[simp] theorem State.absorb_res (a : U16) (data : List Byte) (s : State) :
    (s.absorb a data).res = s.res := by
  simp [State.absorb]
@[simp] theorem State.absorb_buf (a : U16) (data : List Byte) (s : State) :
    (s.absorb a data).buf = s.buf := by
  simp [State.absorb]
@[simp] theorem State.absorb_pending (a : U16) (data : List Byte) (s : State) :
    (s.absorb a data).pending = s.pending := by
  simp [State.absorb]
@[simp] theorem State.absorb_fresh (a : U16) (data : List Byte) (s : State) :
    (s.absorb a data).fresh = s.fresh := by
  simp [State.absorb]

@[simp] theorem State.crcCheck_tbl (tx : U16) (s : State) :
    (s.crcCheck tx).tbl = s.ensureTbl.tbl := by
  simp [State.crcCheck]
@[simp] theorem State.crcCheck_tblValid (tx : U16) (s : State) :
    (s.crcCheck tx).tblValid = true := by
  simp [State.crcCheck]
@[simp] theorem State.crcCheck_acc (tx : U16) (s : State) :
    (s.crcCheck tx).acc = crc Config.crcVariant s.ensureTbl.tbl Config.seed s.buf.bytes := by
  simp [State.crcCheck]
@[simp] theorem State.crcCheck_mode (tx : U16) (s : State) :
    (s.crcCheck tx).mode = s.mode := by
  simp [State.crcCheck]
@[simp] theorem State.crcCheck_status (tx : U16) (s : State) :
    (s.crcCheck tx).status = s.status := by
  simp [State.crcCheck]
@[simp] theorem State.crcCheck_errOff (tx : U16) (s : State) :
    (s.crcCheck tx).errOff = s.errOff := by
  simp [State.crcCheck]
@[simp] theorem State.crcCheck_cur (tx : U16) (s : State) :
    (s.crcCheck tx).cur = s.cur := by
  simp [State.crcCheck]
@[simp] theorem State.crcCheck_buf (tx : U16) (s : State) :
    (s.crcCheck tx).buf = s.buf := by
  simp [State.crcCheck]
@[simp] theorem State.crcCheck_pending (tx : U16) (s : State) :
    (s.crcCheck tx).pending = s.pending := by
  simp [State.crcCheck]
@[simp] theorem State.crcCheck_fresh (tx : U16) (s : State) :
    (s.crcCheck tx).fresh = s.fresh := by
  simp [State.crcCheck]
@[simp] theorem State.crcCheck_res (tx : U16) (s : State) :
    (s.crcCheck tx).res =
      { s.res with
        crcComputed := ~~~crc Config.crcVariant s.ensureTbl.tbl Config.seed s.buf.bytes
        crcValid := crcVerdict s.mode
          (~~~crc Config.crcVariant s.ensureTbl.tbl Config.seed s.buf.bytes) tx } := by
  simp [State.crcCheck]

/-! ## retire -/

@[simp] theorem State.retire_of_none (i : Instr) (s : State) (h : i.recordLen? = none) :
    s.retire i = s := by
  simp [State.retire, h]

@[simp] theorem State.retire_of_some (i : Instr) (n : U32) (s : State)
    (h : i.recordLen? = some n) : s.retire i = s.advance n := by
  simp [State.retire, h]

end Sys2Proof.Machine
end

