-- ==== Sys2Proof/Laws/Ops.lean ====
section
/-! SUPPORT. What each shared operation can do, said once. -/

namespace Sys2Proof.Machine

/-! ## Raising -/

/-- An error writes `STATUS`, and `ERR_OFF` for TruncatedRecord (R159). -/
theorem State.raise_eq (e : ParseError) (s : State) :
    (e = .formatMismatch ∧ s.raise e = { s with status := .errFormat }) ∨
      ∃ off, e = .truncatedRecord off ∧
        s.raise e = { s with errOff := off, status := .errTrunc } := by
  cases e with
  | formatMismatch => exact .inl ⟨rfl, rfl⟩
  | truncatedRecord off => exact .inr ⟨off, rfl, rfl⟩

/-! ## Record operands -/

/-- The transmitted CRC is the little-endian number of the payload's first two bytes (R78). -/
theorem State.payload16_of_wf {s : State} (hm : s.buf.wf = true) (h : s.cur + 6 + 2 ≤ s.buf.len) :
    ∃ b0 b1, s.buf.memRead (s.cur + 6) 2 = some [b0, b1] ∧ s.payload16 = some (le16 b0 b1) := by
  obtain ⟨b0, b1, hb⟩ := Memory.memRead_two hm h
  refine ⟨b0, b1, hb, ?_⟩
  simp [State.payload16, State.payloadStart, Config.recHdrLen, Config.crc16Payload, hb]

/-- The package identifier is the little-endian number of the payload's first four bytes (R79). -/
theorem State.payload32_of_wf {s : State} (hm : s.buf.wf = true) (h : s.cur + 6 + 4 ≤ s.buf.len) :
    ∃ b0 b1 b2 b3, s.buf.memRead (s.cur + 6) 4 = some [b0, b1, b2, b3] ∧
      s.payload32 = some (le32 b0 b1 b2 b3) := by
  obtain ⟨b0, b1, b2, b3, hb⟩ := Memory.memRead_four hm h
  refine ⟨b0, b1, b2, b3, hb, ?_⟩
  simp [State.payload32, State.payloadStart, Config.recHdrLen, Config.packagePayload, hb]

/-- The magic is the big-endian number of the first four bytes (R70). -/
theorem State.headerMagic_of_wf {s : State} (hm : s.buf.wf = true) (h : 4 ≤ s.buf.len) :
    ∃ b0 b1 b2 b3, s.buf.memRead 0 4 = some [b0, b1, b2, b3] ∧
      s.headerMagic = some (be32 b0 b1 b2 b3) := by
  obtain ⟨b0, b1, b2, b3, hb⟩ := Memory.memRead_four (addr := 0) hm (by omega)
  refine ⟨b0, b1, b2, b3, hb, ?_⟩
  simp [State.headerMagic, Config.magicLen, hb]

/-! ## Fetching a record -/

/-- A fetched record was decoded from six bytes at the cursor and fits in the buffer (R116, R117,
R118). -/
theorem fetchRecord_run {s : State} {i : Instr} (h : fetchRecord s = .run i) :
    ∃ t0 t1 l0 l1 l2 l3, s.buf.memRead s.cur 6 = some [t0, t1, l0, l1, l2, l3] ∧
      i = recordOf (le16 t0 t1) (le32 l0 l1 l2 l3) ∧
      s.cur + 6 + (le32 l0 l1 l2 l3).toNat ≤ s.buf.len := by
  unfold fetchRecord at h
  split at h
  · cases h
  · split at h
    · cases h
    · next bs hb =>
      have hl := Memory.memRead_length hb
      simp only [Config.recHdrLen] at hl hb
      match bs, hl with
      | [t0, t1, l0, l1, l2, l3], _ =>
        simp only [decode, decodeRecord_six, recordOf_recordLen?, Option.map_some,
          Option.getD_some, State.payloadStart, Config.recHdrLen] at h
        split at h
        · cases h
        · cases h
          exact ⟨t0, t1, l0, l1, l2, l3, hb, rfl, by omega⟩

/-- A record step raises nothing but TruncatedRecord at the cursor (R116, R118). -/
theorem fetchRecord_raised {s : State} {e : ParseError} (h : fetchRecord s = .raised e) :
    e = .truncatedRecord s.cur := by
  unfold fetchRecord at h
  repeat' split at h
  all_goals cases h
  all_goals rfl

/-- A record step does not end the run (R115). -/
theorem fetchRecord_not_finished (s : State) : fetchRecord s ≠ .finished := by
  unfold fetchRecord
  repeat' split
  all_goals simp

/-- On a canonical buffer a fetch reads inside it (R52, R182). -/
theorem fetchRecord_not_outside {s : State} (hm : s.buf.wf = true) (r : Fault) :
    fetchRecord s ≠ .outside r := by
  unfold fetchRecord
  split
  · simp
  · next hl =>
    obtain ⟨t0, t1, l0, l1, l2, l3, hb⟩ :=
      Memory.memRead_six hm (addr := s.cur) (by simp [Config.recHdrLen] at hl; omega)
    simp only [Config.recHdrLen, hb, decode, decodeRecord_six]
    split <;> simp

/-- What a fetch can answer (R110). -/
theorem fetch_cases (s : State) :
    (s.cur = 0 ∧ fetch s = .run .sof) ∨
      (s.cur ≠ 0 ∧ s.cur = s.buf.len ∧ fetch s = .finished) ∨
      (s.cur ≠ 0 ∧ s.cur ≠ s.buf.len ∧ fetch s = fetchRecord s) := by
  unfold fetch
  by_cases h : s.cur = 0
  · exact .inl ⟨h, if_pos h⟩
  · rw [if_neg h]
    by_cases h1 : s.cur = s.buf.len
    · exact .inr (.inl ⟨h, h1, if_pos h1⟩)
    · exact .inr (.inr ⟨h, h1, if_neg h1⟩)

end Sys2Proof.Machine
end

