-- ==== Sys2Proof/Laws/PerInstr.lean ====
section
/-! SUPPORT. Families of statements with one lemma per constructor of Instr. -/

namespace Sys2Proof.Laws.EncodedLength

/-- The encoding of `i`, where it has one, is the header's 16 bytes (R70) or a record's tag and
length, 6 bytes (R72); it has none exactly when it has no format. -/
def Statement (i : Instr) : Prop :=
  (encode i).map List.length =
    i.format?.map fun f => match f with
      | .hdr => Config.hdrLen
      | .tlv => Config.recHdrLen

theorem sof : Statement .sof := rfl
theorem buildtool (n : U32) : Statement (.buildtool n) := rfl
theorem chiptype (n : U32) : Statement (.chiptype n) := rfl
theorem name (n : U32) : Statement (.name n) := rfl
theorem crc16 (n : U32) : Statement (.crc16 n) := rfl
theorem bitstream (n : U32) : Statement (.bitstream n) := rfl
theorem package (n : U32) : Statement (.package n) := rfl
theorem ramM4k (n : U32) : Statement (.ramM4k n) := rfl
theorem skip (tag : U16) (n : U32) : Statement (.skip tag n) := rfl
theorem reset : Statement .reset := rfl
theorem tblInit : Statement .tblInit := rfl
theorem crcSeed (a : U16) : Statement (.crcSeed a) := rfl
theorem crcByte (b : Byte) : Statement (.crcByte b) := rfl
theorem crcCompute (seed : U16) (data : List Byte) : Statement (.crcCompute seed data) := rfl
theorem parse (buf : List Byte) (mode : CrcMode) : Statement (.parse buf mode) := rfl
theorem crcCheck (tx : U16) : Statement (.crcCheck tx) := rfl

end Sys2Proof.Laws.EncodedLength
end

