-- ==== Sys2Proof/Laws/Step.lean ====
section
/-! SUPPORT. The shape of a step. -/

namespace Sys2Proof.Machine

/-- While a `PARSE` runs, a step is a step of it (R10). -/
theorem step_of_busy {s : State} (h : s.status = .busy) : step s = parserStep s := by
  simp [step, h]

/-- Otherwise a step is the host's (R10). -/
theorem step_of_not_busy {s : State} (h : s.status ≠ .busy) : step s = hostStep s := by
  unfold step
  split
  · exact absurd ‹_› h
  all_goals rfl

/-- An instruction's outcome is a next state exactly when what the step makes of it is. -/
theorem retireOutcome_next {i : Instr} {o : Host.Outcome State Fault Refusal} {t : State}
    (h : retireOutcome i o = .next t) : ∃ u, o = .next u ∧ t = u.retire i := by
  cases o with
  | next u => exact ⟨u, rfl, by cases h; rfl⟩
  | fault r => cases h
  | refused r => cases h

/-- A run of one step more begins with a step. -/
theorem run_succ (k : Nat) {s t : State} (h : step s = .next t) :
    Host.Core.run core (k + 1) s = Host.Core.run core k t := by
  have hc : core.step s = .next t := h
  simp only [Host.Core.run, hc]

/-- A run of one step. -/
theorem run_one {s t : State} (h : step s = .next t) : Host.Core.run core 1 s = .next t :=
  run_succ 0 h

/-- What a busy step that goes on has done: the header, the end, a record with its advance, or an
error at the cursor (R110). -/
theorem parserStep_cases {s t : State} (h : parserStep s = .next t) :
    (s.cur = 0 ∧ exec .sof s = .next t) ∨
      (s.cur ≠ 0 ∧ s.cur = s.buf.len ∧ t = s.complete) ∨
      (s.cur ≠ 0 ∧ s.cur ≠ s.buf.len ∧ t = s.raise (.truncatedRecord s.cur)) ∨
      (s.cur ≠ 0 ∧ s.cur ≠ s.buf.len ∧
        ∃ t0 t1 l0 l1 l2 l3 u, s.buf.memRead s.cur 6 = some [t0, t1, l0, l1, l2, l3] ∧
          s.cur + 6 + (le32 l0 l1 l2 l3).toNat ≤ s.buf.len ∧
          exec (recordOf (le16 t0 t1) (le32 l0 l1 l2 l3)) s = .next u ∧
          t = u.advance (le32 l0 l1 l2 l3)) := by
  unfold parserStep at h
  rcases fetch_cases s with ⟨h0, hf⟩ | ⟨h0, h1, hf⟩ | ⟨h0, h1, hf⟩
  · rw [hf] at h
    obtain ⟨u, hu, rfl⟩ := retireOutcome_next h
    exact .inl ⟨h0, by simpa [State.retire, Instr.recordLen?] using hu⟩
  · rw [hf] at h
    cases h
    exact .inr (.inl ⟨h0, h1, rfl⟩)
  · rw [hf] at h
    refine .inr (.inr ?_)
    cases hr : fetchRecord s with
    | run i =>
      rw [hr] at h
      obtain ⟨u, hu, rfl⟩ := retireOutcome_next h
      obtain ⟨t0, t1, l0, l1, l2, l3, hb, rfl, hl⟩ := fetchRecord_run hr
      exact .inr ⟨h0, h1, t0, t1, l0, l1, l2, l3, u, hb, hl, hu, by simp [State.retire]⟩
    | raised e =>
      rw [hr] at h
      rw [fetchRecord_raised hr] at h
      cases h
      exact .inl ⟨h0, h1, rfl⟩
    | finished => exact absurd hr (fetchRecord_not_finished s)
    | outside r => rw [hr] at h; cases h

/-- A host step takes the oldest pending operation, or leaves everything as it is (R10, R183). -/
theorem hostStep_cases {s t : State} (h : hostStep s = .next t) :
    (s.pending = [] ∧ t = s) ∨
      ∃ op ops, s.pending = op :: ops ∧ exec op.instr { s with pending := ops } = .next t := by
  unfold hostStep at h
  split at h
  · next hp => cases h; exact .inl ⟨hp, rfl⟩
  · next op ops hp => exact .inr ⟨op, ops, hp, h⟩

end Sys2Proof.Machine
end

