-- ==== Sys2Proof/Tests/Slice0.lean ====
section
/-! SUPPORT. Tests on fixed values, their expected results taken from spec/95_test_vectors.md and the
tables of spec/40_crc_engine.md, and a witness for the hypotheses of each statement. -/

namespace Sys2Proof.Tests

open Sys2Proof.Machine

/-! ## Helpers -/

/-- `HDR0` of 95_test_vectors.md. -/
def hdr0 : List Byte := [0x53, 0x4F, 0x46, 0x00, 0, 0, 0, 0, 0, 0, 0, 0, 0, 0, 0, 0]

/-- A machine in the middle of a `PARSE` of the given bytes. -/
def busyAt (bs : List Byte) (cur : Nat) : State :=
  { State.reset with buf := .ofBytes bs, cur := cur, status := .busy }

/-- A machine with host operations pending. -/
def withOps (ops : List HostOp) : State := { State.reset with pending := ops }

/-- The next state, if there is one. -/
def nextOf (o : Host.Outcome State Fault Refusal) : Option State :=
  match o with
  | .next s => some s
  | .fault _ | .refused _ => none

/-- The state one step after fetching a record that follows `HDR0`. -/
def afterRecord (record : List Byte) : Option State := nextOf (step (busyAt (hdr0 ++ record) 16))

/-! ## WellFormed: an ill-formed term for each check -/

theorem test_skip_of_a_recognised_tag_is_ill_formed :
    (Config.recognisedTags.map fun tag => (Instr.skip tag 0).wellFormed) =
      [false, false, false, false, false, false, false] := by decide

theorem test_skip_of_another_tag_is_well_formed : (Instr.skip 0x0111 3).wellFormed = true := by
  decide

/-! ## Decoding: words written out from 30_encoding.md and 95_test_vectors.md section 3 -/

theorem test_decode_sof : decode .hdr hdr0 = .ok .sof := by decide
theorem test_decode_sof_any_reserved :
    decode .hdr ([0x53, 0x4F, 0x46, 0x00] ++ List.replicate 12 0xFF) = .ok .sof := by decide
theorem test_decode_swapped_magic :
    decode .hdr [0x00, 0x46, 0x4F, 0x53, 0, 0, 0, 0, 0, 0, 0, 0, 0, 0, 0, 0] =
      .error .badMagic := by decide
theorem test_decode_short_header : decode .hdr (hdr0.take 15) = .error .shortHeader := by decide
theorem test_decode_buildtool :
    decode .tlv [0x01, 0x00, 0x02, 0x00, 0x00, 0x00, 0x71, 0x74] = .ok (.buildtool 2) := by decide
theorem test_decode_chiptype :
    decode .tlv [0x02, 0x00, 0x05, 0x00, 0x00, 0x00] = .ok (.chiptype 5) := by decide
theorem test_decode_name :
    decode .tlv [0x03, 0x00, 0x00, 0x00, 0x00, 0x00] = .ok (.name 0) := by decide
theorem test_decode_crc16 :
    decode .tlv [0x08, 0x00, 0x02, 0x00, 0x00, 0x00, 0x47, 0x0F] = .ok (.crc16 2) := by decide
theorem test_decode_bitstream :
    decode .tlv [0x11, 0x00, 0x03, 0x00, 0x00, 0x00] = .ok (.bitstream 3) := by decide
theorem test_decode_package :
    decode .tlv [0x12, 0x00, 0x04, 0x00, 0x00, 0x00] = .ok (.package 4) := by decide
theorem test_decode_ramM4k :
    decode .tlv [0x15, 0x00, 0x01, 0x00, 0x00, 0x00] = .ok (.ramM4k 1) := by decide
theorem test_decode_skip_high_byte :
    decode .tlv [0x11, 0x01, 0x03, 0x00, 0x00, 0x00] = .ok (.skip 0x0111 3) := by decide
theorem test_decode_length_unsigned :
    decode .tlv [0x00, 0x12, 0xFF, 0xFF, 0xFF, 0xFF] = .ok (.skip 0x1200 0xFFFFFFFF) := by decide
theorem test_decode_five_bytes :
    decode .tlv [0x12, 0x00, 0x04, 0x00, 0x00] = .error .shortRecord := by decide

theorem test_table_word_sof : decodeTableWord 32 0x534F4600 = some .sof := by decide
theorem test_table_words_records :
    [1, 2, 3, 8, 0x11, 0x12, 0x15, 0x0000].map (decodeTableWord 16) =
      [some (.buildtool 0), some (.chiptype 0), some (.name 0), some (.crc16 0),
        some (.bitstream 0), some (.package 0), some (.ramM4k 0), some (.skip 0 0)] := by decide
theorem test_table_word_with_length :
    decodeTableWord 48 0x000000040012 = some (.package 4) := by decide
theorem test_withFetchWord_runs_record :
    (nextOf (step (State.reset.withFetchWord 16 0x0011))).map (·.res.bs) =
      some ⟨22, 0, true⟩ := by decide
theorem test_withFetchWord_runs_header :
    (nextOf (step (State.reset.withFetchWord 32 0x534F4600))).map (·.cur) = some 16 := by decide

theorem test_encode_package : encode (.package 4) = some [0x12, 0x00, 0x04, 0x00, 0x00, 0x00] := by
  decide
theorem test_encode_host_operation : encode (.crcByte 0x31) = none := by decide

/-! ## Decode primitives (95 section 3) -/

theorem test_le16 : le16 0x12 0x00 = 18 ∧ le16 0x00 0x12 = 0x1200 := by decide
theorem test_le32 : le32 0x78 0x56 0x34 0x12 = 0x12345678 := by decide
theorem test_be32 : be32 0x53 0x4F 0x46 0x00 = 0x534F4600 := by decide

/-! ## Reading outside the buffer has no value (R52) -/

theorem test_memRead_in_bounds :
    (Memory.ofBytes hdr0).memRead 12 4 = some [0, 0, 0, 0] := by decide
theorem test_memRead_past_end : (Memory.ofBytes hdr0).memRead 13 4 = none := by decide
theorem test_memRead_empty_past_end : (Memory.ofBytes hdr0).memRead 17 0 = none := by decide

/-! ## CRC engine (40_crc_engine.md sections 2, 3; 95 sections 2.1 to 2.5) -/

theorem test_poly_reflected : Config.poly.reverse = Config.polyRefl := by decide
theorem test_tl_entries :
    [0x0F, 0x10, 0x62, 0x7F, 0xAC, 0xFE].map (tblEntry .lsbFirst) =
      [0xF8F7, 0x1081, 0x4014, 0x8B70, 0x6F66, 0x1EF1] := by decide +kernel
theorem test_tm_entries :
    [0x0F, 0x10, 0x62, 0x7F, 0xAC, 0xFE].map (tblEntry .msbFirst) =
      [0xF1EF, 0x1231, 0x4CE4, 0x8F78, 0x7466, 0x0ED1] := by decide +kernel
theorem test_upd_lsb : upd .lsbFirst (builtTbl .lsbFirst) 0x1234 0x56 = 0x4006 := by decide +kernel
theorem test_upd_msb : upd .msbFirst (builtTbl .msbFirst) 0x1234 0x56 = 0x3C40 := by decide +kernel
theorem test_crc_digits_lsb :
    crc .lsbFirst (builtTbl .lsbFirst) 0xFFFF
      [0x31, 0x32, 0x33, 0x34, 0x35, 0x36, 0x37, 0x38, 0x39] = 0x6F91 := by decide +kernel
theorem test_crc_digits_msb :
    crc .msbFirst (builtTbl .msbFirst) 0xFFFF
      [0x31, 0x32, 0x33, 0x34, 0x35, 0x36, 0x37, 0x38, 0x39] = 0x29B1 := by decide +kernel
theorem test_crc_header : crcComplement .lsbFirst hdr0 = 0x7507 := by decide +kernel

theorem test_tblInit_entries :
    (nextOf (exec .tblInit State.reset)).map (fun s => (s.tblValid, tblRead s.tbl 255)) =
      some (true, 0x0F78) := by decide +kernel
theorem test_crcSeed : (nextOf (exec (.crcSeed 0xFFFF) State.reset)).map (·.acc) = some 0xFFFF := by
  decide
theorem test_crcByte_first_of_magic :
    (nextOf (exec (.crcByte 0x53) { State.reset with acc := 0xFFFF })).map
      (fun s => (s.acc, s.tblValid)) = some (0x6F99, true) := by decide +kernel
theorem test_crcCompute_chains :
    (nextOf (exec (.crcCompute 0x8B13 [0x35, 0x36, 0x37, 0x38, 0x39]) State.reset)).map (·.acc) =
      some 0x6F91 := by decide +kernel
theorem test_crcCompute_empty :
    (nextOf (exec (.crcCompute 0x1234 []) State.reset)).map (·.acc) = some 0x1234 := by decide
theorem test_crcCheck_const :
    (nextOf (exec (.crcCheck 0xC0D7)
        { busyAt (hdr0 ++ [8, 0, 2, 0, 0, 0, 0xD7, 0xC0]) 16 with mode := .const })).map
      (fun s => (s.acc, s.res.crcComputed, s.res.crcValid)) =
      some (0xF0B8, 0x0F47, true) := by decide +kernel
theorem test_reset_clears :
    (nextOf (exec .reset { busyAt hdr0 16 with errOff := 9, tblValid := true })).map
      (fun s => (s.status, s.cur, s.errOff, s.tblValid)) = some (.idle, 0, 0, false) := by decide

/-! ## Parser steps (95 sections 4.1 to 4.4) -/

theorem test_parse_starts :
    (nextOf (step { withOps [.parse hdr0 .tx] with errOff := 5 })).map
      (fun s => (s.status, s.mode, s.cur, s.errOff, s.buf.len)) =
      some (.busy, .tx, 0, 0, 16) := by decide
theorem test_header_accepts :
    (nextOf (step (busyAt hdr0 0))).map (fun s => (s.status, s.cur)) = some (.busy, 16) := by decide
theorem test_header_twelve_bytes :
    (nextOf (step (busyAt (hdr0.take 12) 0))).map (fun s => (s.status, s.errOff, s.cur)) =
      some (.errTrunc, 0, 0) := by decide
theorem test_header_three_bytes :
    (nextOf (step (busyAt [0x53, 0x4F, 0x46] 0))).map (fun s => (s.status, s.cur)) =
      some (.errFormat, 0) := by decide
theorem test_buildtool :
    (afterRecord [1, 0, 2, 0, 0, 0, 0x71, 0x74]).map (fun s => (s.cur, s.res.bt)) =
      some (24, ⟨22, 2, true⟩) := by decide
theorem test_chiptype :
    (afterRecord [2, 0, 5, 0, 0, 0, 0x45, 0x50, 0x32, 0x43, 0x35]).map
      (fun s => (s.cur, s.res.ct)) = some (27, ⟨22, 5, true⟩) := by decide
theorem test_name_empty :
    (afterRecord [3, 0, 0, 0, 0, 0]).map (fun s => (s.cur, s.res.nm)) =
      some (22, ⟨22, 0, true⟩) := by decide
theorem test_bitstream :
    (afterRecord [0x11, 0, 3, 0, 0, 0, 0xAA, 0xBB, 0xCC]).map (fun s => (s.cur, s.res.bs)) =
      some (25, ⟨22, 3, true⟩) := by decide
theorem test_ramM4k :
    (afterRecord [0x15, 0, 1, 0, 0, 0, 0x55]).map (fun s => (s.cur, s.res.ram)) =
      some (23, ⟨22, 1, true⟩) := by decide
theorem test_package_long :
    (afterRecord [0x12, 0, 6, 0, 0, 0, 0x34, 0x12, 0, 0, 0xEE, 0xEE]).map
      (fun s => (s.cur, s.res.pkgId, s.res.pkgSeen)) = some (28, 0x1234, true) := by decide
theorem test_package_short :
    (afterRecord [0x12, 0, 2, 0, 0, 0, 0x34, 0x12]).map (fun s => (s.cur, s.res)) =
      some (24, .empty) := by decide
theorem test_crc16_tx_mode :
    (nextOf (step { busyAt (hdr0 ++ [8, 0, 2, 0, 0, 0, 0xDB, 0x66]) 16 with mode := .tx })).map
      (fun s => (s.acc, s.res.crcComputed, s.res.crcTx, s.res.crcSeen, s.res.crcValid)) =
      some (0x9924, 0x66DB, 0x66DB, true, true) := by decide +kernel
theorem test_crc16_short :
    (afterRecord [8, 0, 1, 0, 0, 0, 0x47]).map (fun s => (s.cur, s.res, s.tblValid)) =
      some (23, .empty, false) := by decide
theorem test_skip :
    (afterRecord [4, 0, 2, 0, 0, 0, 0xDE, 0xAD]).map (fun s => (s.cur, s.res)) =
      some (24, .empty) := by decide
theorem test_length_does_not_wrap :
    (afterRecord [0x11, 0, 0xFA, 0xFF, 0xFF, 0xFF]).map (fun s => (s.status, s.errOff, s.cur)) =
      some (.errTrunc, 16, 16) := by decide
theorem test_complete :
    (nextOf (step (busyAt hdr0 16))).map (·.status) = some .ok := by decide

/-! ## The assembly notation (R85; 95 section 4.4 row 1) -/

theorem test_crc16_auto :
    (assemble .lsbFirst [.sof (List.replicate 12 0), .crc16Auto]).drop 16 =
      [8, 0, 2, 0, 0, 0, 0xD7, 0xC0] := by decide +kernel

/-! ## The hypotheses of the statements can be met -/

/-- `TblInv` holds of a machine without a table and of one with it. -/
theorem witness_TblInv_unbuilt (s : State) (h : s.tblValid = false) : TblInv s :=
  fun hv => by rw [h] at hv; cases hv

theorem witness_TblInv_built (s : State) : TblInv s.buildTbl := fun _ => rfl

theorem witness_DecodeInvertsEncode_record :
    (Instr.package 4).wellFormed = true ∧ (Instr.package 4).format? = some .tlv ∧
      encode (.package 4) = some [0x12, 0, 4, 0, 0, 0] := by decide
theorem witness_DecodeInvertsEncode_header :
    Instr.sof.wellFormed = true ∧ Instr.sof.format? = some .hdr ∧ encode .sof = some hdr0 := by
  decide
theorem witness_DecodeInvertsEncode_skip :
    (Instr.skip 0xFFFF 6).wellFormed = true ∧ (Instr.skip 0xFFFF 6).format? = some .tlv ∧
      encode (.skip 0xFFFF 6) = some [0xFF, 0xFF, 6, 0, 0, 0] := by decide
theorem witness_RecordEncodeInvertsDecode :
    ([0x12, 0, 4, 0, 0, 0] : List Byte).length = 6 ∧
      decode .tlv [0x12, 0, 4, 0, 0, 0] = .ok (.package 4) := by decide

theorem witness_HeaderStepOutcomes_three_bytes :
    (busyAt [0x53, 0x4F, 0x46] 0).buf.wf = true ∧
      (busyAt [0x53, 0x4F, 0x46] 0).buf.memRead 0 4 ≠ some [0x53, 0x4F, 0x46, 0x00] := by decide
theorem witness_HeaderStepOutcomes_bad_magic :
    (busyAt [0x53, 0x4F, 0x46, 0x01] 0).buf.wf = true ∧
      (busyAt [0x53, 0x4F, 0x46, 0x01] 0).buf.memRead 0 4 ≠ some [0x53, 0x4F, 0x46, 0x00] := by
  decide
theorem witness_HeaderStepOutcomes_fifteen_bytes :
    (busyAt (hdr0.take 15) 0).buf.wf = true ∧
      (busyAt (hdr0.take 15) 0).buf.memRead 0 4 = some [0x53, 0x4F, 0x46, 0x00] ∧
      (busyAt (hdr0.take 15) 0).buf.len < 16 := by decide
theorem witness_HeaderStepOutcomes_sixteen_bytes :
    (busyAt hdr0 0).buf.wf = true ∧
      (busyAt hdr0 0).buf.memRead 0 4 = some [0x53, 0x4F, 0x46, 0x00] ∧
      16 ≤ (busyAt hdr0 0).buf.len := by decide

/-- A record of `n` zero payload bytes after `HDR0`, ending exactly at the end of the buffer. -/
def atRecord (tag : U16) (n : Nat) : State :=
  busyAt (hdr0 ++ recBytes tag (List.replicate n 0)) 16

theorem witness_PackageDecodesIdentifier_four :
    (atRecord 18 4).buf.wf = true ∧
      (atRecord 18 4).cur + 6 + (4 : U32).toNat ≤ (atRecord 18 4).buf.len ∧
      4 ≤ (4 : U32).toNat := by decide
theorem witness_PackageDecodesIdentifier_three :
    (atRecord 18 3).buf.wf = true ∧
      (atRecord 18 3).cur + 6 + (3 : U32).toNat ≤ (atRecord 18 3).buf.len ∧
      (3 : U32).toNat < 4 := by decide
theorem witness_Crc16ChecksTheWholeBuffer_two :
    (atRecord 8 2).buf.wf = true ∧ TblInv (atRecord 8 2) ∧
      (atRecord 8 2).cur + 6 + (2 : U32).toNat ≤ (atRecord 8 2).buf.len ∧
      2 ≤ (2 : U32).toNat :=
  ⟨by decide, witness_TblInv_unbuilt _ rfl, by decide, by decide⟩
theorem witness_Crc16ChecksTheWholeBuffer_one :
    (atRecord 8 1).buf.wf = true ∧ TblInv (atRecord 8 1) ∧
      (atRecord 8 1).cur + 6 + (1 : U32).toNat ≤ (atRecord 8 1).buf.len ∧
      (1 : U32).toNat < 2 :=
  ⟨by decide, witness_TblInv_unbuilt _ rfl, by decide, by decide⟩
theorem witness_CrcCheckValidates :
    (atRecord 8 2).buildTbl.buf.wf = true ∧ TblInv (atRecord 8 2).buildTbl :=
  ⟨by decide, witness_TblInv_built _⟩
theorem witness_UnrecognisedRecordOnlyAdvances :
    (atRecord 4 2).status = .busy ∧ (atRecord 4 2).cur ≠ 0 ∧
      (atRecord 4 2).buf.memRead (atRecord 4 2).cur 6 = some [4, 0, 2, 0, 0, 0] ∧
      le16 4 0 ∉ ([1, 2, 3, 8, 17, 18, 21] : List U16) ∧
      (atRecord 4 2).cur + 6 + (le32 2 0 0 0).toNat ≤ (atRecord 4 2).buf.len := by decide
theorem witness_RecordsNeverTouchControl :
    (Instr.name 2).recordLen? = some 2 ∧ ∃ t, exec (.name 2) (atRecord 3 2) = .next t :=
  ⟨rfl, _, rfl⟩
theorem witness_RecordsOfDifferentTagsCommute :
    (Instr.bitstream 2).recordLen? = some 2 ∧ (Instr.ramM4k 1).recordLen? = some 1 ∧
      (Instr.bitstream 2).tag? ≠ (Instr.ramM4k 1).tag? ∧
      ∃ s1 s2 t1 t2, exec (.bitstream 2) { atRecord 17 2 with cur := 16 } = .next s1 ∧
        exec (.ramM4k 1) { s1 with cur := 17 } = .next s2 ∧
        exec (.ramM4k 1) { atRecord 17 2 with cur := 17 } = .next t1 ∧
        exec (.bitstream 2) { t1 with cur := 16 } = .next t2 :=
  ⟨rfl, rfl, by decide, _, _, _, _, rfl, rfl, rfl, rfl⟩
theorem witness_LastRecordOfATagWins :
    (Instr.package 4).recordLen? = some 4 ∧ (Instr.package 4).wellFormed = true ∧
      ((Instr.package 4).tag? = some 8 → 2 ≤ (4 : U32).toNat) ∧
      ((Instr.package 4).tag? = some 18 → 4 ≤ (4 : U32).toNat) ∧
      ∃ s1 s2 t, exec (.package 4) { atRecord 18 4 with cur := 16 } = .next s1 ∧
        exec (.package 4) { s1 with cur := 16 } = .next s2 ∧
        exec (.package 4) { atRecord 18 4 with cur := 16 } = .next t :=
  ⟨rfl, rfl, by decide, by decide, _, _, _, rfl, rfl, rfl⟩
theorem witness_LastRecordOfATagWins_crc16 :
    (Instr.crc16 0).recordLen? = some 0 ∧ (Instr.crc16 2).recordLen? = some 2 ∧
      (Instr.crc16 0).tag? = (Instr.crc16 2).tag? ∧ 2 ≤ (2 : U32).toNat ∧
      ∃ s1 s2 t, exec (.crc16 0) { atRecord 8 2 with cur := 16 } = .next s1 ∧
        exec (.crc16 2) { s1 with cur := 16 } = .next s2 ∧
        exec (.crc16 2) { atRecord 8 2 with cur := 16 } = .next t :=
  ⟨rfl, rfl, rfl, by decide, _, _, _, rfl, rfl, rfl⟩
theorem witness_SeedThenBytesIsCompute :
    TblInv (withOps [.crcSeed 0xFFFF, .crcByte 0x31]) ∧
      (withOps [.crcSeed 0xFFFF, .crcByte 0x31]).status ≠ .busy ∧
      (withOps [.crcSeed 0xFFFF, .crcByte 0x31]).pending =
        .crcSeed 0xFFFF :: [0x31].map HostOp.crcByte :=
  ⟨witness_TblInv_unbuilt _ rfl, by decide, rfl⟩
theorem witness_LazyBuildIsUnobservable :
    TblInv State.reset ∧ exec .tblInit State.reset = .next State.reset.buildTbl :=
  ⟨witness_TblInv_unbuilt _ rfl, rfl⟩
theorem witness_EngineKeepsParserRegisters :
    Instr.crcByte 1 = .tblInit ∨ (∃ a, Instr.crcByte 1 = .crcSeed a) ∨
      (∃ b, Instr.crcByte 1 = .crcByte b) ∨
      ∃ seed data, Instr.crcByte 1 = .crcCompute seed data :=
  .inr (.inr (.inl ⟨1, rfl⟩))
theorem witness_ResidueIsConstant :
    (0 : U16) = crc .lsbFirst (builtTbl .lsbFirst) 0xFFFF [] ^^^ 0xFFFF := by decide
theorem witness_CrcDetectsOneByteChange : (0x31 : Byte) ≠ 0x32 := by decide
theorem witness_StepRunsDecodedRecord :
    (atRecord 18 4).status = .busy ∧ (atRecord 18 4).cur ≠ 0 ∧
      (atRecord 18 4).buf.memRead (atRecord 18 4).cur 6 = some [0x12, 0, 4, 0, 0, 0] ∧
      decode .tlv [0x12, 0, 4, 0, 0, 0] = .ok (.package 4) ∧
      (Instr.package 4).recordLen? = some 4 ∧
      (atRecord 18 4).cur + 6 + (4 : U32).toNat ≤ (atRecord 18 4).buf.len := by decide
theorem witness_StepRunsDecodedRecord_next :
    ∃ t, exec (.package 4) (atRecord 18 4) = .next t := ⟨_, rfl⟩
theorem witness_StepRunsHeaderAtOffsetZero :
    (busyAt hdr0 0).status = .busy ∧ (busyAt hdr0 0).cur = 0 := by decide
theorem witness_StepRunsHostOperation :
    (withOps [.tblInit]).status ≠ .busy ∧ (withOps [.tblInit]).pending = [.tblInit] ∧
      (withOps []).status ≠ .busy ∧ (withOps []).pending = [] := by decide
theorem witness_RecordBoundsChecksRaise_five_left :
    (busyAt (hdr0 ++ [0x11, 0, 0, 0, 0]) 16).status = .busy ∧
      (busyAt (hdr0 ++ [0x11, 0, 0, 0, 0]) 16).cur ≠ 0 ∧
      (busyAt (hdr0 ++ [0x11, 0, 0, 0, 0]) 16).cur <
        (busyAt (hdr0 ++ [0x11, 0, 0, 0, 0]) 16).buf.len ∧
      (busyAt (hdr0 ++ [0x11, 0, 0, 0, 0]) 16).buf.len < 16 + 6 := by decide
theorem witness_RecordBoundsChecksRaise_payload_cut :
    (busyAt (hdr0 ++ [0x11, 0, 1, 0, 0, 0]) 16).status = .busy ∧
      (busyAt (hdr0 ++ [0x11, 0, 1, 0, 0, 0]) 16).cur <
        (busyAt (hdr0 ++ [0x11, 0, 1, 0, 0, 0]) 16).buf.len ∧
      (busyAt (hdr0 ++ [0x11, 0, 1, 0, 0, 0]) 16).buf.memRead 16 6 =
        some [0x11, 0, 1, 0, 0, 0] ∧
      (busyAt (hdr0 ++ [0x11, 0, 1, 0, 0, 0]) 16).buf.len <
        16 + 6 + (le32 1 0 0 0).toNat := by decide
theorem witness_StepCompletesAtBufferEnd :
    (busyAt hdr0 16).status = .busy ∧ (busyAt hdr0 16).cur ≠ 0 ∧
      (busyAt hdr0 16).cur = (busyAt hdr0 16).buf.len := by decide
theorem witness_BusyStepIgnoresPending :
    (atRecord 17 2).status = .busy ∧ ∃ t, step (atRecord 17 2) = .next t := ⟨rfl, _, rfl⟩
theorem witness_ResultsNeverSteer :
    (atRecord 8 2).status = .busy ∧ ∃ t, step (atRecord 8 2) = .next t := ⟨rfl, _, rfl⟩
theorem witness_StepNeverReadsOutside : (atRecord 18 4).buf.wf = true := by decide
theorem witness_ErrorsArePrecise_trunc :
    (busyAt (hdr0 ++ [0x11]) 16).status = .busy ∧
      ∃ t, step (busyAt (hdr0 ++ [0x11]) 16) = .next t ∧ t.status = .errTrunc :=
  ⟨rfl, _, rfl, rfl⟩
theorem witness_ErrorsArePrecise_format :
    (busyAt [0x53] 0).status = .busy ∧ ∃ t, step (busyAt [0x53] 0) = .next t ∧
      t.status = .errFormat :=
  ⟨rfl, _, rfl, rfl⟩
theorem witness_RunningStepAdvances :
    (atRecord 17 0).status = .busy ∧ ∃ t, step (atRecord 17 0) = .next t ∧ t.status = .busy :=
  ⟨rfl, _, rfl, rfl⟩
theorem witness_OnlyCrc16TouchesTheEngine :
    (atRecord 8 1).status = .busy ∧ (∃ t, step (atRecord 8 1) = .next t) ∧
      (atRecord 8 1).buf.memRead (atRecord 8 1).cur 6 = some [8, 0, 1, 0, 0, 0] ∧
      (le32 1 0 0 0).toNat < 2 :=
  ⟨rfl, ⟨_, rfl⟩, by decide, by decide⟩
theorem witness_ParseIgnoresHistory :
    TblInv (atRecord 17 2) ∧ TblInv ((atRecord 17 2).buildTbl.setAcc 7) ∧
      (atRecord 17 2).status = .busy ∧
      ((atRecord 17 2).buildTbl.setAcc 7).status = (atRecord 17 2).status ∧
      ((atRecord 17 2).buildTbl.setAcc 7).cur = (atRecord 17 2).cur ∧
      ((atRecord 17 2).buildTbl.setAcc 7).errOff = (atRecord 17 2).errOff ∧
      ((atRecord 17 2).buildTbl.setAcc 7).mode = (atRecord 17 2).mode ∧
      ((atRecord 17 2).buildTbl.setAcc 7).res = (atRecord 17 2).res ∧
      ((atRecord 17 2).buildTbl.setAcc 7).buf = (atRecord 17 2).buf ∧
      ∃ t, step (atRecord 17 2) = .next t :=
  ⟨witness_TblInv_unbuilt _ rfl, fun _ => rfl, rfl, rfl, rfl, rfl, rfl, rfl, rfl, _, rfl⟩
theorem witness_BufferIsNeverWritten_parse :
    ∃ t, exec (.parse hdr0 .const) State.reset = .next t := ⟨_, rfl⟩
theorem witness_BufferIsNeverWritten_record :
    (∀ bs mode, Instr.package 4 ≠ .parse bs mode) ∧
      ∃ t, exec (.package 4) (atRecord 18 4) = .next t := ⟨nofun, _, rfl⟩
theorem witness_ParseRunsToItsEnd : TblInv State.reset := witness_TblInv_unbuilt _ rfl
theorem witness_AlteredMagicFails :
    ([0x53, 0x4F, 0x46, 0x01] : List Byte).take 4 ≠ [0x53, 0x4F, 0x46, 0x00] ∧
      ([0x53, 0x4F, 0x46] : List Byte).take 4 ≠ [0x53, 0x4F, 0x46, 0x00] := by decide
theorem witness_EmptyStreamParses : (List.replicate 12 (0xFF : Byte)).length = 12 := by decide
theorem witness_BitstreamRoundTrips :
    (List.replicate 12 (0 : Byte)).length = 12 ∧ ([] : List Byte).length < 2 ^ 32 ∧
      ∀ r ∈ [((0x0111 : U16), ([0xAA] : List Byte))] ++ [(8, [0, 0]), (21, [])],
        r.1 ≠ 17 ∧ r.2.length < 2 ^ 32 := by decide
theorem witness_BitstreamRoundTrips_alone :
    ∀ r ∈ ([] : List (U16 × List Byte)) ++ [], r.1 ≠ 17 ∧ r.2.length < 2 ^ 32 := by decide
theorem witness_HostReadsRegistersBetweenOperations :
    (busyAt hdr0 0).status = .busy ∧ State.reset.status ≠ .busy := by decide
theorem witness_AutoStreamValidates :
    TblInv State.reset ∧ (List.replicate 12 (0 : Byte)).length = 12 ∧
      ∀ r ∈ [((18 : U16), ([0x34, 0x12, 0, 0] : List Byte))], r.2.length < 2 ^ 32 :=
  ⟨witness_TblInv_unbuilt _ rfl, by decide, by decide⟩
theorem witness_EveryStepKeepsInvariant :
    Invariant (atRecord 17 2) ∧ ∃ t, step (atRecord 17 2) = .next t := by
  refine ⟨⟨by decide, witness_TblInv_unbuilt _ rfl, ?_, ?_, ?_, ?_⟩, _, rfl⟩
  · exact ⟨rfl, .inr (by decide)⟩
  · intro x hx
    have hx : x = Slice.absent := by simpa [atRecord, busyAt, State.reset, Result.slices, Result.empty] using hx
    subst hx
    rfl
  · exact ⟨rfl, rfl, rfl⟩
  · exact fun _ => rfl

end Sys2Proof.Tests
end

section
/-! PROOFS. The statements of 00_scope.md. First what every non-interference statement about a running
`PARSE` turns on: a relation that the parser's own updates keep is kept by a busy step. -/

namespace Sys2Proof.Machine

/-! ## A simulation between two running machines -/

/-- Two outcomes of one kind, with next states in `R` or the same reason to stop. -/
def OutcomeRel (R : State → State → Prop) :
    Host.Outcome State Fault Refusal → Host.Outcome State Fault Refusal → Prop
  | .next s, .next s' => R s s'
  | .fault r, .fault r' => r = r'
  | .refused r, .refused r' => r = r'
  | _, _ => False

theorem OutcomeRel.exists_next {R : State → State → Prop} {t : State}
    {o : Host.Outcome State Fault Refusal} (h : OutcomeRel R (.next t) o) :
    ∃ t', o = .next t' ∧ R t t' := by
  cases o with
  | next t' => exact ⟨t', rfl, h⟩
  | fault r => exact h.elim
  | refused r => exact h.elim

/-- The machines agree on what a running `PARSE` reads, and every update it makes keeps the
relation. -/
structure ParserSim (R : State → State → Prop) : Prop where
  cur : ∀ {s s'}, R s s' → s'.cur = s.cur
  buf : ∀ {s s'}, R s s' → s'.buf = s.buf
  res : ∀ {s s'}, R s s' → s'.res = s.res
  raise : ∀ {s s'} e, R s s' → R (s.raise e) (s'.raise e)
  acceptHeader : ∀ {s s'}, R s s' → R s.acceptHeader s'.acceptHeader
  advance : ∀ {s s'} n, R s s' → R (s.advance n) (s'.advance n)
  complete : ∀ {s s'}, R s s' → R s.complete s'.complete
  setRes : ∀ {s s'} r, R s s' → R (s.setRes r) (s'.setRes r)
  crcCheck : ∀ {s s'} tx, R s s' → R (s.crcCheck tx) (s'.crcCheck tx)

/-- What is fetched depends on the cursor and the buffer only (R110, R116 to R119). -/
theorem fetch_congr {s s' : State} (hcur : s'.cur = s.cur) (hbuf : s'.buf = s.buf) :
    fetch s' = fetch s := by
  unfold fetch fetchRecord State.payloadStart
  rw [hcur, hbuf]

/-- A busy step runs the header or a record (R110). -/
theorem fetch_run {s : State} {i : Instr} (h : fetch s = .run i) :
    i = .sof ∨ ∃ n, i.recordLen? = some n := by
  rcases fetch_cases s with ⟨-, hf⟩ | ⟨-, -, hf⟩ | ⟨-, -, hf⟩
  · rw [hf] at h; cases h; exact .inl rfl
  · rw [hf] at h; cases h
  · obtain ⟨_, _, _, _, _, _, -, rfl, -⟩ := fetchRecord_run (hf ▸ h)
    exact .inr ⟨_, recordOf_recordLen? _ _⟩

section
variable {R : State → State → Prop} {s s' : State}

theorem ParserSim.exec_sof (hR : ParserSim R) (h : R s s') :
    OutcomeRel R (exec .sof s) (exec .sof s') := by
  simp only [exec, execSof, State.headerMagic, hR.buf h]
  split
  · exact hR.raise _ h
  split
  · rfl
  split
  · exact hR.raise _ h
  split
  · exact hR.raise _ h
  · exact hR.acceptHeader h

theorem ParserSim.exec_crc16 (hR : ParserSim R) (h : R s s') (n : U32) :
    OutcomeRel R (exec (.crc16 n) s) (exec (.crc16 n) s') := by
  simp only [exec, execCrc16, State.payload16, State.payloadStart, hR.cur h, hR.buf h, hR.res h]
  split
  · exact h
  split
  · rfl
  · exact hR.crcCheck _ (hR.setRes _ h)

theorem ParserSim.exec_package (hR : ParserSim R) (h : R s s') (n : U32) :
    OutcomeRel R (exec (.package n) s) (exec (.package n) s') := by
  simp only [exec, execPackage, State.payload32, State.payloadStart, hR.cur h, hR.buf h, hR.res h]
  split
  · exact h
  split
  · rfl
  · exact hR.setRes _ h

/-- A slice record writes a result that the cursor and the result determine. -/
theorem ParserSim.setRes_slice (hR : ParserSim R) (h : R s s') (n : U32)
    (w : Result → Slice → Result) :
    R (s.setRes (w s.res (s.payloadSlice n))) (s'.setRes (w s'.res (s'.payloadSlice n))) := by
  simp only [State.payloadSlice, State.payloadStart, hR.cur h, hR.res h]
  exact hR.setRes _ h

theorem ParserSim.exec_record (hR : ParserSim R) (h : R s s') {i : Instr} {n : U32}
    (hn : i.recordLen? = some n) : OutcomeRel R (exec i s) (exec i s') := by
  cases i with
  | buildtool m => exact hR.setRes_slice h m fun r x => { r with bt := x }
  | chiptype m => exact hR.setRes_slice h m fun r x => { r with ct := x }
  | name m => exact hR.setRes_slice h m fun r x => { r with nm := x }
  | bitstream m => exact hR.setRes_slice h m fun r x => { r with bs := x }
  | ramM4k m => exact hR.setRes_slice h m fun r x => { r with ram := x }
  | crc16 m => exact hR.exec_crc16 h m
  | package m => exact hR.exec_package h m
  | skip tag m => exact h
  | sof | reset | tblInit | crcSeed | crcByte | crcCompute | parse | crcCheck => cases hn

theorem ParserSim.retire (hR : ParserSim R) (h : R s s') (i : Instr) :
    R (s.retire i) (s'.retire i) := by
  unfold State.retire
  split
  · exact hR.advance _ h
  · exact h

theorem ParserSim.retireOutcome (hR : ParserSim R) (i : Instr)
    {o o' : Host.Outcome State Fault Refusal} (h : OutcomeRel R o o') :
    OutcomeRel R (retireOutcome i o) (retireOutcome i o') := by
  cases o with
  | next t =>
    obtain ⟨t', rfl, ht⟩ := h.exists_next
    exact hR.retire ht i
  | fault r => cases o' <;> exact h
  | refused r => cases o' <;> exact h

/-- A step of a running `PARSE` keeps the relation, and the two machines stop for the same reason. -/
theorem ParserSim.parserStep (hR : ParserSim R) (h : R s s') :
    OutcomeRel R (parserStep s) (parserStep s') := by
  simp only [Machine.parserStep, fetch_congr (hR.cur h) (hR.buf h)]
  cases hf : fetch s with
  | run i =>
    refine hR.retireOutcome i ?_
    rcases fetch_run hf with rfl | ⟨n, hn⟩
    · exact hR.exec_sof h
    · exact hR.exec_record h hn
  | raised e => exact hR.raise e h
  | finished => exact hR.complete h
  | outside r => rfl

/-- Of two related busy machines, the second steps wherever the first does (R10). -/
theorem ParserSim.step_next (hR : ParserSim R) (h : R s s') {t : State}
    (hb : s.status = .busy) (hb' : s'.status = .busy) (ht : step s = .next t) :
    ∃ t', step s' = .next t' ∧ R t t' := by
  have hsim := hR.parserStep h
  rw [← step_of_busy hb, ← step_of_busy hb', ht] at hsim
  exact hsim.exists_next

end

/-! ## The pending operations -/

/-- Another queue of host operations. -/
def State.setPending (ops : List HostOp) (s : State) : State := { s with pending := ops }

theorem State.ensureTbl_setPending (ops : List HostOp) (s : State) :
    (s.setPending ops).ensureTbl = s.ensureTbl.setPending ops := by
  unfold State.ensureTbl
  exact (apply_ite (State.setPending ops) (s.tblValid = true) s s.buildTbl).symm

theorem State.crcCheck_setPending (tx : U16) (ops : List HostOp) (s : State) :
    (s.setPending ops).crcCheck tx = (s.crcCheck tx).setPending ops := by
  simp only [State.crcCheck, State.absorb, State.ensureTbl_setPending]
  rfl

/-- Nothing a `PARSE` does reads or writes the queue (R10). -/
theorem parserSim_setPending (ops : List HostOp) :
    ParserSim fun s s' => s' = s.setPending ops where
  cur := by rintro s _ rfl; rfl
  buf := by rintro s _ rfl; rfl
  res := by rintro s _ rfl; rfl
  raise := by rintro s _ (_ | off) rfl <;> rfl
  acceptHeader := by rintro s _ rfl; rfl
  advance := by rintro s _ n rfl; rfl
  complete := by rintro s _ rfl; rfl
  setRes := by rintro s _ r rfl; rfl
  crcCheck := by rintro s _ tx rfl; exact s.crcCheck_setPending tx ops

/-- A busy step commutes with a change of the queue. -/
theorem step_setPending (ops : List HostOp) {s t : State} (hb : s.status = .busy)
    (h : step s = .next t) : step (s.setPending ops) = .next (t.setPending ops) := by
  obtain ⟨_, ht', rfl⟩ := (parserSim_setPending ops).step_next rfl hb hb h
  exact ht'

/-- Settles O36: commutation with any queue, and with the machine's own queue it says that the queue
stays. -/
theorem busyStepIgnoresPending : Obligations.BusyStepIgnoresPending := by
  intro s t ops hb h
  refine ⟨step_setPending ops hb h, ?_⟩
  have hown : step s = .next (t.setPending s.pending) := step_setPending s.pending hb h
  have htt : t = t.setPending s.pending := Host.Outcome.next.inj (h.symm.trans hown)
  rw [htt]
  rfl

/-! ## The engine's past -/

/-- Agreement on the parser's registers, `MODE` and the buffer, with a usable table on both sides
(R22, R127); accumulators, tables and pending operations may differ. -/
structure SameParse (s s' : State) : Prop where
  table : TblInv s
  table' : TblInv s'
  status : s'.status = s.status
  cur : s'.cur = s.cur
  errOff : s'.errOff = s.errOff
  mode : s'.mode = s.mode
  res : s'.res = s.res
  buf : s'.buf = s.buf

theorem tblInv_crcCheck {s : State} (h : TblInv s) (tx : U16) : TblInv (s.crcCheck tx) :=
  fun _ => by rw [State.crcCheck_tbl, State.ensureTbl_tbl h]

theorem SameParse.raise {s s' : State} (h : SameParse s s') (e : ParseError) :
    SameParse (s.raise e) (s'.raise e) := by
  cases e with
  | formatMismatch => exact { h with status := rfl }
  | truncatedRecord off => exact { h with status := rfl, errOff := rfl }

/-- CRC_CHECK reads the buffer, `MODE` and a table that is the built one on both sides (R94, R101). -/
theorem SameParse.crcCheck {s s' : State} (h : SameParse s s') (tx : U16) :
    SameParse (s.crcCheck tx) (s'.crcCheck tx) where
  table := tblInv_crcCheck h.table tx
  table' := tblInv_crcCheck h.table' tx
  status := by simpa using h.status
  cur := by simpa using h.cur
  errOff := by simpa using h.errOff
  mode := by simpa using h.mode
  res := by
    simp only [State.crcCheck_res, State.ensureTbl_tbl h.table, State.ensureTbl_tbl h.table',
      h.res, h.buf, h.mode]
  buf := by simpa using h.buf

/-- Nothing a `PARSE` does lets the accumulator or the table's past reach its registers (R127). -/
theorem parserSim_sameParse : ParserSim SameParse where
  cur h := h.cur
  buf h := h.buf
  res h := h.res
  raise e h := h.raise e
  acceptHeader h := { h with cur := rfl }
  advance n h := { h with cur := by simp [h.cur] }
  complete h := { h with status := rfl }
  setRes r h := { h with res := rfl }
  crcCheck tx h := h.crcCheck tx

/-- Settles O42, by the simulation `SameParse`. -/
theorem parseIgnoresHistory : Obligations.ParseIgnoresHistory := by
  intro s s' t hT hT' hb hstatus hcur herr hmode hres hbuf h
  have hsame : SameParse s s' := ⟨hT, hT', hstatus, hcur, herr, hmode, hres, hbuf⟩
  obtain ⟨t', ht', hs⟩ := parserSim_sameParse.step_next hsame hb (hstatus.trans hb) h
  exact ⟨t', ht', hs.status, hs.cur, hs.errOff, hs.mode, hs.res, hs.buf⟩

/-! ## Host operations -/

/-- Settles O33: a step without a running `PARSE` is the host's, by its two equations. -/
theorem stepRunsHostOperation : Obligations.StepRunsHostOperation := by
  intro s hb
  rw [step_of_not_busy hb]
  exact ⟨fun op ops hp => by simp only [hostStep, hp], fun hp => by simp only [hostStep, hp]⟩

/-! ## Decode primitives -/

/-- A byte put below a word is a digit in base 256 (R5 to R7). -/
theorem toNat_append_byte {w : Nat} (x : BitVec w) (b : Byte) :
    (x ++ b).toNat = 256 * x.toNat + b.toNat := by
  rw [BitVec.toNat_append, ← Nat.shiftLeft_add_eq_or_of_lt b.isLt, Nat.shiftLeft_eq]
  omega

/-- Settles O1: each primitive is its bytes appended, most significant first. -/
theorem decodePrimitivesAreByteSums : Obligations.DecodePrimitivesAreByteSums := by
  intro b0 b1 b2 b3
  simp only [le16, le32, be32, toNat_append_byte]
  omega

end Sys2Proof.Machine
end

section
/-! PROOFS. The statements of 10_state.md. First what the header step and a record can do, said
once; then the two facts about a running `PARSE` that rest on it: what steers it, and what it keeps. -/

namespace Sys2Proof.Machine

/-! ## What steers a parse -/

/-- Agreement on the registers that decide where a parse goes, and on the buffer (R31, R155);
results, `MODE`, engine and pending operations may differ. -/
structure SameControl (s s' : State) : Prop where
  status : s'.status = s.status
  cur : s'.cur = s.cur
  errOff : s'.errOff = s.errOff
  buf : s'.buf = s.buf

/-! ## The header step and the records -/

/-- A header step ends in one of the two errors or accepts a header that fits (R112, R113, R114). -/
theorem exec_sof_cases {s t : State} (h : exec .sof s = .next t) :
    t = s.raise .formatMismatch ∨ t = s.raise (.truncatedRecord 0) ∨
      (Config.hdrLen ≤ s.buf.len ∧ t = s.acceptHeader) := by
  simp only [exec, execSof] at h
  split at h
  · cases h; exact .inl rfl
  split at h
  · cases h
  split at h
  · cases h; exact .inl rfl
  split at h
  · cases h; exact .inr (.inl rfl)
  · cases h; exact .inr (.inr ⟨by omega, rfl⟩)

/-- The slice registers of a result (R28, R29). -/
inductive SliceReg where
  | bs | ram | bt | ct | nm

/-- Write one slice register. -/
def Result.setSlice (r : Result) (k : SliceReg) (x : Slice) : Result :=
  match k with
  | .bs => { r with bs := x }
  | .ram => { r with ram := x }
  | .bt => { r with bt := x }
  | .ct => { r with ct := x }
  | .nm => { r with nm := x }

theorem Result.mem_slices_setSlice {r : Result} {k : SliceReg} {x y : Slice}
    (h : y ∈ (r.setSlice k x).slices) : y ∈ r.slices ∨ y = x := by
  simp only [Result.slices, List.mem_cons, List.not_mem_nil, or_false] at h ⊢
  cases k <;> simp only [Result.setSlice] at h <;> tauto

/-- The states a record of length `n` can lead to (42_records.md): nothing changes, one slice
register takes the payload, the package identifier is written, or the CRC is checked. -/
inductive RecordEffect (n : U32) (s : State) : State → Prop
  | none : RecordEffect n s s
  | slice (k : SliceReg) :
      RecordEffect n s (s.setRes (s.res.setSlice k (s.payloadSlice n)))
  | package (id : U32) :
      RecordEffect n s (s.setRes { s.res with pkgId := id, pkgSeen := true })
  | crc (tx : U16) :
      RecordEffect n s ((s.setRes { s.res with crcTx := tx, crcSeen := true }).crcCheck tx)

/-- Every record has one of these effects (R130 to R137, R83). -/
theorem exec_record_effect {i : Instr} {n : U32} {s u : State} (hn : i.recordLen? = some n)
    (h : exec i s = .next u) : RecordEffect n s u := by
  cases i with
  | buildtool m => cases hn; cases h; exact .slice .bt
  | chiptype m => cases hn; cases h; exact .slice .ct
  | name m => cases hn; cases h; exact .slice .nm
  | bitstream m => cases hn; cases h; exact .slice .bs
  | ramM4k m => cases hn; cases h; exact .slice .ram
  | skip tag m => cases h; exact .none
  | crc16 m =>
    simp only [exec, execCrc16] at h
    split at h
    · cases h; exact .none
    split at h
    · cases h
    · cases h; exact .crc _
  | package m =>
    simp only [exec, execPackage] at h
    split at h
    · cases h; exact .none
    split at h
    · cases h
    · cases h; exact .package _
  | sof | reset | tblInit | crcSeed | crcByte | crcCompute | parse | crcCheck => cases hn

section
variable {n : U32} {s u : State}

/-- No record writes the control registers or the buffer (R119). -/
theorem RecordEffect.sameControl (h : RecordEffect n s u) : SameControl s u := by
  cases h with
  | crc tx => exact ⟨by simp, by simp, by simp, by simp⟩
  | none | slice | package => exact ⟨rfl, rfl, rfl, rfl⟩

/-- The only slice a record can add is its own payload. -/
theorem RecordEffect.mem_slices (h : RecordEffect n s u) {x : Slice} (hx : x ∈ u.res.slices) :
    x ∈ s.res.slices ∨ x = s.payloadSlice n := by
  cases h with
  | slice k => exact Result.mem_slices_setSlice hx
  | crc tx => rw [State.crcCheck_res] at hx; exact .inl hx
  | none | package => exact .inl hx

/-- Whether the table is right does not depend on the result. -/
theorem tblInv_setRes (hT : TblInv s) (r : Result) : TblInv (s.setRes r) := hT

theorem RecordEffect.tblInv (h : RecordEffect n s u) (hT : TblInv s) : TblInv u := by
  cases h with
  | crc tx => exact tblInv_crcCheck (tblInv_setRes hT _) tx
  | none | slice | package => exact hT

/-- A check makes the CRC fields what R32 says; the other records leave them. -/
theorem RecordEffect.crcInv (h : RecordEffect n s u) (hT : TblInv s) (hC : CrcInv s) :
    CrcInv u := by
  cases h with
  | crc tx =>
    simp [CrcInv, crcComplement, State.ensureTbl_tbl (tblInv_setRes hT _)]
  | slice k => cases k <;> exact hC
  | none | package => exact hC

theorem RecordEffect.packageInv (h : RecordEffect n s u) (hP : PackageInv s) : PackageInv u := by
  cases h with
  | package id => exact nofun
  | crc tx => unfold PackageInv; rw [State.crcCheck_res]; exact hP
  | slice k => cases k <;> exact hP
  | none => exact hP

end

/-! ## Results and the comparison mode do not steer -/

section
variable {s s' : State}

theorem SameControl.setRes (h : SameControl s s') (r r' : Result) :
    SameControl (s.setRes r) (s'.setRes r') := { h with }

theorem SameControl.crcCheck (h : SameControl s s') (tx : U16) :
    SameControl (s.crcCheck tx) (s'.crcCheck tx) where
  status := by simpa using h.status
  cur := by simpa using h.cur
  errOff := by simpa using h.errOff
  buf := by simpa using h.buf

theorem SameControl.raise (h : SameControl s s') (e : ParseError) :
    SameControl (s.raise e) (s'.raise e) := by
  cases e with
  | formatMismatch => exact { h with status := rfl }
  | truncatedRecord off => exact { h with status := rfl, errOff := rfl }

theorem SameControl.retire (h : SameControl s s') (i : Instr) :
    SameControl (s.retire i) (s'.retire i) := by
  unfold State.retire
  split
  · exact { h with cur := by simp [h.cur] }
  · exact h

theorem SameControl.exec_sof (h : SameControl s s') :
    OutcomeRel SameControl (exec .sof s) (exec .sof s') := by
  simp only [exec, execSof, State.headerMagic, h.buf]
  split
  · exact h.raise _
  split
  · rfl
  split
  · exact h.raise _
  split
  · exact h.raise _
  · exact { h with cur := rfl }

/-- Where a record's payload is read, and what is read there, is decided by the cursor and the
buffer (R78, R79). -/
theorem SameControl.exec_record (h : SameControl s s') {i : Instr} {n : U32}
    (hn : i.recordLen? = some n) : OutcomeRel SameControl (exec i s) (exec i s') := by
  cases i with
  | buildtool | chiptype | name | bitstream | ramM4k => exact h.setRes _ _
  | skip => exact h
  | crc16 m =>
    simp only [exec, execCrc16, State.payload16, State.payloadStart, h.cur, h.buf]
    split
    · exact h
    split
    · rfl
    · exact (h.setRes _ _).crcCheck _
  | package m =>
    simp only [exec, execPackage, State.payload32, State.payloadStart, h.cur, h.buf]
    split
    · exact h
    split
    · rfl
    · exact h.setRes _ _
  | sof | reset | tblInit | crcSeed | crcByte | crcCompute | parse | crcCheck => cases hn

theorem SameControl.retireOutcome (i : Instr) {o o' : Host.Outcome State Fault Refusal}
    (h : OutcomeRel SameControl o o') :
    OutcomeRel SameControl (retireOutcome i o) (retireOutcome i o') := by
  cases o with
  | next t =>
    obtain ⟨t', rfl, ht⟩ := h.exists_next
    exact ht.retire i
  | fault r => cases o' <;> exact h
  | refused r => cases o' <;> exact h

/-- A step of a running `PARSE` goes the same way in both machines (R31, R155). -/
theorem SameControl.parserStep (h : SameControl s s') :
    OutcomeRel SameControl (parserStep s) (parserStep s') := by
  simp only [Machine.parserStep, fetch_congr h.cur h.buf]
  cases hf : fetch s with
  | run i =>
    refine SameControl.retireOutcome i ?_
    rcases fetch_run hf with rfl | ⟨n, hn⟩
    · exact h.exec_sof
    · exact h.exec_record hn
  | raised e => exact h.raise e
  | finished => exact { h with status := rfl }
  | outside r => rfl

end

/-- Settles O41, by the simulation `SameControl`. -/
theorem resultsNeverSteer : Obligations.ResultsNeverSteer := by
  intro s t r mode hb h
  have hsame : SameControl s { s with res := r, mode := mode } :=
    ⟨rfl, rfl, rfl, rfl⟩
  have hsim := hsame.parserStep
  rw [← step_of_busy hb, ← step_of_busy (s := { s with res := r, mode := mode }) hb, h] at hsim
  obtain ⟨u, hu, hc⟩ := hsim.exists_next
  exact ⟨u, hu, hc.cur, hc.status, hc.errOff⟩

/-! ## The invariant, without the step -/

/-- The invariant reads no more than what `SameParse` compares. -/
theorem SameParse.invariant {s s' : State} (h : SameParse s s') (hI : Invariant s) :
    Invariant s' where
  memory := by rw [h.buf]; exact hI.memory
  table := h.table'
  cursor := by
    unfold CursorInv
    rw [h.status, h.cur, h.errOff, h.res, h.buf]
    exact hI.cursor
  slices := by unfold SliceInv; rw [h.res, h.cur]; exact hI.slices
  crcFields := by unfold CrcInv; rw [h.res, h.buf, h.mode]; exact hI.crcFields
  package := by unfold PackageInv; rw [h.res]; exact hI.package

/-- With the empty result only the buffer, the table and the cursor are left to check (R26). -/
theorem Invariant.of_empty {s : State} (hm : s.buf.wf = true) (hT : TblInv s) (hc : CursorInv s)
    (hr : s.res = .empty) : Invariant s where
  memory := hm
  table := hT
  cursor := hc
  slices := by
    intro x hx
    have habsent : x = .absent := by simpa [hr, Result.slices, Result.empty] using hx
    subst habsent
    rfl
  crcFields := by simp [CrcInv, hr, Result.empty]
  package := by simp [PackageInv, hr, Result.empty]

theorem cursorInv_iff_of_busy {s : State} (hb : s.status = .busy) :
    CursorInv s ↔ s.errOff = 0 ∧
      (s.cur = 0 ∧ s.res = .empty ∨ Config.hdrLen ≤ s.cur ∧ s.cur ≤ s.buf.len) := by
  simp only [CursorInv, hb]

/-- Before the header is accepted the result is empty (R26, R152). -/
theorem Invariant.res_of_header {s : State} (hI : Invariant s) (hb : s.status = .busy)
    (h0 : s.cur = 0) : s.errOff = 0 ∧ s.res = .empty := by
  obtain ⟨he, ⟨-, hr⟩ | ⟨h16, -⟩⟩ := (cursorInv_iff_of_busy hb).mp hI.cursor
  · exact ⟨he, hr⟩
  · simp [h0, Config.hdrLen] at h16

/-- After it the cursor stands between the header and the end of the buffer (R126). -/
theorem Invariant.cur_past_header {s : State} (hI : Invariant s) (hb : s.status = .busy)
    (h0 : s.cur ≠ 0) : s.errOff = 0 ∧ Config.hdrLen ≤ s.cur ∧ s.cur ≤ s.buf.len := by
  obtain ⟨he, ⟨hz, -⟩ | hcur⟩ := (cursorInv_iff_of_busy hb).mp hI.cursor
  · exact absurd hz h0
  · exact ⟨he, hcur⟩

/-- A slice stays within bounds when the cursor moves on. -/
theorem Slice.Within.mono {x : Slice} {a b : Nat} (h : x.Within a) (hab : a ≤ b) :
    x.Within b := by
  unfold Slice.Within at h ⊢
  split at h
  · rw [if_pos ‹_›]; omega
  · rwa [if_neg ‹_›]

/-- The payload of a record past the header lies before the advanced cursor (R27, R120). -/
theorem State.payloadSlice_within {s : State} (n : U32) (h : Config.hdrLen ≤ s.cur) :
    (s.payloadSlice n).Within (s.advance n).cur := by
  simp only [Slice.Within, State.payloadSlice, Slice.present, State.payloadStart,
    State.advance_cur, if_true]
  omega

/-! ## Steps keep the invariant -/

section
variable {s t : State}

/-- The header step keeps the invariant: the result is still empty (R112, R113, R114). -/
theorem Invariant.exec_sof (hI : Invariant s) (hb : s.status = .busy) (h0 : s.cur = 0)
    (h : exec .sof s = .next t) : Invariant t := by
  obtain ⟨he, hr⟩ := hI.res_of_header hb h0
  rcases exec_sof_cases h with rfl | rfl | ⟨hl, rfl⟩
  · exact .of_empty hI.memory hI.table ⟨h0, he, hr⟩ hr
  · exact .of_empty hI.memory hI.table ⟨h0.symm, h0.trans_le (Nat.zero_le _), fun _ => hr⟩ hr
  · exact .of_empty hI.memory hI.table
      ((cursorInv_iff_of_busy (s := s.acceptHeader) hb).mpr ⟨he, .inr ⟨Nat.le_refl _, hl⟩⟩) hr

/-- A record that fits keeps the invariant together with its advance (R120). -/
theorem RecordEffect.invariant_advance {n : U32} (h : RecordEffect n s t) (hI : Invariant s)
    (hb : s.status = .busy) (h0 : s.cur ≠ 0)
    (hfits : s.cur + Config.recHdrLen + n.toNat ≤ s.buf.len) : Invariant (t.advance n) := by
  obtain ⟨he, h16, -⟩ := hI.cur_past_header hb h0
  obtain ⟨hstatus, hcur, herr, hbuf⟩ := h.sameControl
  have hadv : (t.advance n).cur = (s.advance n).cur := by simp [hcur]
  exact {
    memory := by rw [State.advance_buf, hbuf]; exact hI.memory
    table := h.tblInv hI.table
    cursor := by
      refine (cursorInv_iff_of_busy (s := t.advance n) (hstatus.trans hb)).mpr
        ⟨herr.trans he, .inr ?_⟩
      rw [hadv, State.advance_cur, State.advance_buf, hbuf]
      exact ⟨by omega, hfits⟩
    slices := by
      intro x hx
      rw [hadv]
      rcases h.mem_slices hx with hold | rfl
      · exact (hI.slices x hold).mono (by rw [State.advance_cur]; omega)
      · exact s.payloadSlice_within n h16
    crcFields := h.crcInv hI.table hI.crcFields
    package := h.packageInv hI.package }

/-- A step of a running `PARSE` keeps the invariant. -/
theorem Invariant.parserStep (hI : Invariant s) (hb : s.status = .busy)
    (h : parserStep s = .next t) : Invariant t := by
  rcases parserStep_cases h with ⟨h0, hsof⟩ | ⟨h0, hend, rfl⟩ | ⟨h0, -, rfl⟩ |
    ⟨h0, -, _, _, _, _, _, _, u, -, hfits, hu, rfl⟩
  · exact hI.exec_sof hb h0 hsof
  · obtain ⟨he, h16, -⟩ := hI.cur_past_header hb h0
    exact { hI with cursor := ⟨he, h16, hend⟩ }
  · obtain ⟨-, -, hl⟩ := hI.cur_past_header hb h0
    exact { hI with cursor := ⟨rfl, hl, fun hz => absurd hz h0⟩ }
  · exact (exec_record_effect (recordOf_recordLen? _ _) hu).invariant_advance hI hb h0 hfits

theorem Invariant.buildTbl (hI : Invariant s) : Invariant s.buildTbl :=
  SameParse.invariant ⟨hI.table, fun _ => rfl, rfl, rfl, rfl, rfl, rfl, rfl⟩ hI

theorem Invariant.setAcc (hI : Invariant s) (a : U16) : Invariant (s.setAcc a) :=
  SameParse.invariant ⟨hI.table, hI.table, rfl, rfl, rfl, rfl, rfl, rfl⟩ hI

theorem Invariant.setPending (hI : Invariant s) (ops : List HostOp) :
    Invariant (s.setPending ops) :=
  SameParse.invariant ⟨hI.table, hI.table, rfl, rfl, rfl, rfl, rfl, rfl⟩ hI

/-- The lazy build makes the table the built one, so absorbing keeps the invariant (R94). -/
theorem Invariant.absorb (hI : Invariant s) (a : U16) (data : List Byte) :
    Invariant (s.absorb a data) := by
  unfold State.absorb
  rw [State.ensureTbl_eq_buildTbl hI.table]
  exact hI.buildTbl.setAcc _

/-- `RESET` clears the result and the mark of the table (R40, R170). -/
theorem Invariant.applyReset (hI : Invariant s) : Invariant s.applyReset :=
  .of_empty hI.memory nofun ⟨rfl, rfl, rfl⟩ rfl

/-- `PARSE` starts with the empty result on a lent buffer (R111). -/
theorem Invariant.start (hI : Invariant s) (bs : List Byte) (mode : CrcMode) :
    Invariant (s.start bs mode) :=
  .of_empty (Memory.ofBytes_wf bs) hI.table ⟨rfl, .inl ⟨rfl, rfl⟩⟩ rfl

/-- Every operation of the host keeps the invariant (R10). -/
theorem Invariant.exec_hostOp (hI : Invariant s) (op : HostOp)
    (h : exec op.instr s = .next t) : Invariant t := by
  cases op with
  | reset => cases h; exact hI.applyReset
  | tblInit => cases h; exact hI.buildTbl
  | crcSeed a => cases h; exact hI.setAcc a
  | crcByte b => cases h; exact hI.absorb _ _
  | crcCompute seed data => cases h; exact hI.absorb seed data
  | parse bs mode => cases h; exact hI.start bs mode

theorem Invariant.hostStep (hI : Invariant s) (h : hostStep s = .next t) : Invariant t := by
  rcases hostStep_cases h with ⟨-, rfl⟩ | ⟨op, ops, -, hop⟩
  · exact hI
  · exact (hI.setPending ops).exec_hostOp op hop

end

/-- Settles O50: a step is the parser's or the host's, and each keeps the invariant. -/
theorem everyStepKeepsInvariant : Obligations.EveryStepKeepsInvariant := by
  intro s t hI h
  by_cases hb : s.status = .busy
  · exact hI.parserStep hb (step_of_busy hb ▸ h)
  · exact hI.hostStep (step_of_not_busy hb ▸ h)

/-! ## Right after reset -/

/-- Settles O18: the registers of the reset state. -/
theorem powerOnHoldsResetValues : Obligations.PowerOnHoldsResetValues :=
  ⟨rfl, rfl, rfl, rfl, rfl⟩

/-- Settles O51: the empty result, the empty buffer and a table that is not marked built. -/
theorem resetMeetsInvariant : Obligations.ResetMeetsInvariant :=
  .of_empty rfl nofun ⟨rfl, rfl, rfl⟩ rfl

/-! ## What the host reads -/

/-- Outside `BUSY` the host reads every register but the entries of `TBL` (R36, R53). -/
theorem State.hostView_of_not_busy {s : State} (hb : s.status ≠ .busy) :
    s.hostView = some ⟨s.tblValid, s.acc, s.mode, s.status, s.errOff, s.cur, s.res⟩ := by
  unfold State.hostView
  split
  · exact absurd ‹_› hb
  all_goals rfl

/-- The result registers are a ParseResult exactly under `OK` (R179). -/
theorem State.parseResult_eq (s : State) :
    s.parseResult = if s.status = .ok then some s.res else none := by
  unfold State.parseResult
  split
  · rw [if_pos ‹_›]
  all_goals rw [if_neg (by simp [*])]

/-- Settles O52: nothing under `BUSY`, every register otherwise, a ParseResult under `OK`. -/
theorem hostReadsRegistersBetweenOperations :
    Obligations.HostReadsRegistersBetweenOperations := fun s =>
  ⟨fun hb => by simp only [State.hostView, hb], State.hostView_of_not_busy, s.parseResult_eq⟩

end Sys2Proof.Machine
end

section
/-! PROOFS. The statement of 20_memory.md: no instruction writes the buffer. -/

namespace Sys2Proof.Machine

/-- The header step moves the cursor or raises; it does not write the buffer (R51, R112 to R114). -/
theorem exec_sof_buf {s t : State} (h : exec .sof s = .next t) : t.buf = s.buf := by
  rcases exec_sof_cases h with rfl | rfl | ⟨-, rfl⟩ <;> rfl

/-- No record writes the buffer (R51, R119). -/
theorem exec_record_buf {i : Instr} {n : U32} {s t : State} (hn : i.recordLen? = some n)
    (h : exec i s = .next t) : t.buf = s.buf :=
  (exec_record_effect hn h).sameControl.buf

/-- Every instruction but PARSE leaves the whole field `buf` as it is (R51). -/
theorem exec_buf {i : Instr} {s t : State} (hi : ∀ bs mode, i ≠ .parse bs mode)
    (h : exec i s = .next t) : t.buf = s.buf := by
  cases i with
  | sof => exact exec_sof_buf h
  | buildtool | chiptype | name | crc16 | bitstream | package | ramM4k | skip =>
    exact exec_record_buf rfl h
  | reset => cases h; exact s.applyReset_buf
  | tblInit => cases h; exact s.buildTbl_buf
  | crcSeed a => cases h; exact s.setAcc_buf a
  | crcByte b => cases h; exact s.absorb_buf _ _
  | crcCompute seed data => cases h; exact s.absorb_buf seed data
  | crcCheck tx => cases h; exact s.crcCheck_buf tx
  | parse bs mode => exact absurd rfl (hi bs mode)

/-- Settles O43: `exec_buf`, and for PARSE the reads of a lent buffer (R50). -/
theorem bufferIsNeverWritten : Obligations.BufferIsNeverWritten := by
  intro i s t h
  constructor
  · intro hi
    rw [exec_buf hi h]
    exact ⟨rfl, fun _ => rfl⟩
  · rintro bs mode rfl
    cases h
    rw [State.start_buf]
    exact ⟨Memory.len_ofBytes bs, Memory.readByte_ofBytes bs⟩

end Sys2Proof.Machine
end

section
/-! PROOFS. The statements of 30_encoding.md about the decoder and the encoder. They turn on one
characterisation: a record decodes to the well-formed instruction with its tag and its length. -/

namespace Sys2Proof

/-! ## The tag map and its inverse -/

/-- A tag outside the recognised set is skipped (R77, R81). -/
theorem recordOf_of_not_recognised {tag : U16} (h : tag ∉ Config.recognisedTags) (n : U32) :
    recordOf tag n = .skip tag n := by
  simp only [Config.recognisedTags, List.mem_cons, List.not_mem_nil, or_false, not_or] at h
  obtain ⟨hbt, hct, hnm, hcrc, hbs, hpkg, hram⟩ := h
  simp only [recordOf, if_neg hbt, if_neg hct, if_neg hnm, if_neg hcrc, if_neg hbs, if_neg hpkg,
    if_neg hram]

theorem wellFormed_skip_iff {tag : U16} {n : U32} :
    (Instr.skip tag n).wellFormed = true ↔ tag ∉ Config.recognisedTags := by
  simp [Instr.wellFormed]

/-- The tag map answers SKIP for unrecognised tags only (R77). -/
@[simp] theorem recordOf_wellFormed (tag : U16) (n : U32) : (recordOf tag n).wellFormed = true := by
  by_cases h : tag ∈ Config.recognisedTags
  · simp only [Config.recognisedTags, List.mem_cons, List.not_mem_nil, or_false] at h
    rcases h with rfl | rfl | rfl | rfl | rfl | rfl | rfl <;> rfl
  · rw [recordOf_of_not_recognised h]
    exact wellFormed_skip_iff.mpr h

/-- A well-formed record is what the tag map answers for its own tag and length (R72, R76). -/
theorem recordOf_eq_of_wellFormed {i : Instr} {tag : U16} {n : U32} (hw : i.wellFormed = true)
    (ht : i.tag? = some tag) (hn : i.recordLen? = some n) : recordOf tag n = i := by
  cases i with
  | skip t m =>
    cases ht; cases hn
    exact recordOf_of_not_recognised (wellFormed_skip_iff.mp hw) n
  | buildtool | chiptype | name | crc16 | bitstream | package | ramM4k => cases ht; cases hn; rfl
  | sof | reset | tblInit | crcSeed | crcByte | crcCompute | parse | crcCheck => cases ht

/-! ## Decoding what was encoded -/

/-- The tag and the length of a record are read back whatever follows them (R5, R6, R72). -/
theorem decode_encodeRecordHeader (tag : U16) (n : U32) (rest : List Byte) :
    decode .tlv (encodeRecordHeader tag n ++ rest) = .ok (recordOf tag n) := by
  simp only [decode, encodeRecordHeader, bytesLE16, bytesLE32, List.cons_append, List.nil_append,
    decodeRecord_six, le16_extract, le32_extract]

/-- A header with its 12 reserved bytes, whatever they hold and whatever follows (R70, R71). -/
theorem decode_encodeHeader {reserved : List Byte} (hr : reserved.length = 12)
    (rest : List Byte) : decode .hdr (encodeHeader reserved ++ rest) = .ok .sof := by
  have hmagic : be32 0x53 0x4F 0x46 0x00 = Config.magic := rfl
  have hlong : ¬ (reserved ++ rest).length + Config.magicLen < Config.hdrLen := by
    simp only [List.length_append, Config.magicLen, Config.hdrLen]
    omega
  change decodeHeader (0x53 :: 0x4F :: 0x46 :: 0x00 :: (reserved ++ rest)) = _
  rw [decodeHeader, if_pos hmagic, if_neg hlong]

/-- A record has a tag and a length, and they are its encoding (R72). -/
theorem encode_of_format_tlv {i : Instr} (h : i.format? = some .tlv) :
    ∃ tag n, i.tag? = some tag ∧ i.recordLen? = some n ∧
      encode i = some (encodeRecordHeader tag n) := by
  cases i with
  | buildtool | chiptype | name | crc16 | bitstream | package | ramM4k | skip =>
    exact ⟨_, _, rfl, rfl, rfl⟩
  | sof | reset | tblInit | crcSeed | crcByte | crcCompute | parse | crcCheck => cases h

/-- The header is the only instruction of its format (R70). -/
theorem eq_sof_of_format_hdr {i : Instr} (h : i.format? = some .hdr) : i = .sof := by
  cases i with
  | sof => rfl
  | buildtool | chiptype | name | crc16 | bitstream | package | ramM4k | skip | reset | tblInit
  | crcSeed | crcByte | crcCompute | parse | crcCheck => cases h

/-- Settles O3, by format: the header's magic is accepted, and a record's tag and length lead the
tag map back to the record. -/
theorem decodeInvertsEncode : Obligations.DecodeInvertsEncode := by
  intro i f bs rest hw hf he
  cases f with
  | hdr =>
    obtain rfl := eq_sof_of_format_hdr hf
    obtain rfl : encodeHeader (List.replicate 12 0) = bs := Option.some.inj he
    exact decode_encodeHeader rfl rest
  | tlv =>
    obtain ⟨tag, n, ht, hn, henc⟩ := encode_of_format_tlv hf
    obtain rfl : encodeRecordHeader tag n = bs := Option.some.inj (henc.symm.trans he)
    rw [decode_encodeRecordHeader, recordOf_eq_of_wellFormed hw ht hn]

/-- Settles O2: the header's reserved bytes are free, and each record is a case of O3. -/
theorem decodeReadsSpecWords : Obligations.DecodeReadsSpecWords :=
  ⟨decode_encodeHeader (reserved := [1, 2, 3, 4, 5, 6, 7, 8, 9, 10, 11, 12]) rfl [],
    decodeInvertsEncode (.buildtool 2) .tlv _ [0x71, 0x74] rfl rfl rfl,
    decodeInvertsEncode (.crc16 2) .tlv _ [0x47, 0x0F] rfl rfl rfl,
    decodeInvertsEncode (.package 4) .tlv _ [] rfl rfl rfl,
    decodeInvertsEncode (.skip 0x0111 3) .tlv _ [] rfl rfl rfl⟩

/-! ## Encoding what was decoded -/

/-- The encoding of a decoded record is its tag and length (R72). -/
theorem encode_recordOf (tag : U16) (n : U32) :
    encode (recordOf tag n) = some (encodeRecordHeader tag n) := by
  simp only [encode, encodeRecord, recordOf_format?, recordOf_tag?, recordOf_recordLen?]

/-- Settles O4: the six bytes are those of the tag and the length read from them. -/
theorem recordEncodeInvertsDecode : Obligations.RecordEncodeInvertsDecode := by
  intro h i hl hd
  match h, hl with
  | [t0, t1, l0, l1, l2, l3], _ =>
    obtain rfl : recordOf (le16 t0 t1) (le32 l0 l1 l2 l3) = i := Except.ok.inj hd
    refine ⟨?_, recordOf_wellFormed _ _⟩
    rw [encode_recordOf, encodeRecordHeader, bytesLE16_le16, bytesLE32_le32]
    rfl

/-! ## Both tag bytes -/

/-- Two bytes are a 16-bit number exactly when they are its low and its high byte (R5). -/
theorem le16_eq_iff {b0 b1 : Byte} {v : U16} :
    le16 b0 b1 = v ↔ b0 = v.extractLsb' 0 8 ∧ b1 = v.extractLsb' 8 8 := by
  constructor
  · rintro rfl
    simp
  · rintro ⟨rfl, rfl⟩
    exact le16_extract v

/-- Record bytes decode to the well-formed instruction with their tag and length, and to no other
(R76, R77). -/
theorem decode_record_eq_iff {t0 t1 l0 l1 l2 l3 : Byte} {rest : List Byte} {i : Instr} :
    decode .tlv (t0 :: t1 :: l0 :: l1 :: l2 :: l3 :: rest) = .ok i ↔
      i.wellFormed = true ∧ i.tag? = some (le16 t0 t1) ∧
        i.recordLen? = some (le32 l0 l1 l2 l3) := by
  rw [decode, decodeRecord_six, Except.ok.injEq]
  constructor
  · rintro rfl
    simp
  · rintro ⟨hw, ht, hn⟩
    exact recordOf_eq_of_wellFormed hw ht hn

/-- A recognised kind is decoded exactly when both tag bytes are its tag's (R77). -/
theorem decode_kind_iff {t0 t1 l0 l1 l2 l3 : Byte} {rest : List Byte} {i : Instr} {tag : U16}
    (hw : i.wellFormed = true) (ht : i.tag? = some tag)
    (hn : i.recordLen? = some (le32 l0 l1 l2 l3)) :
    decode .tlv (t0 :: t1 :: l0 :: l1 :: l2 :: l3 :: rest) = .ok i ↔
      t0 = tag.extractLsb' 0 8 ∧ t1 = tag.extractLsb' 8 8 := by
  rw [decode_record_eq_iff, ht, Option.some.injEq, eq_comm (a := tag), le16_eq_iff]
  exact ⟨fun h => h.2.1, fun h => ⟨hw, h, hn⟩⟩

/-- The recognised tags fit in the low byte (R76). -/
theorem le16_mem_recognisedTags_iff {t0 t1 : Byte} :
    le16 t0 t1 ∈ Config.recognisedTags ↔
      t1 = 0x00 ∧ t0 ∈ ([0x01, 0x02, 0x03, 0x08, 0x11, 0x12, 0x15] : List Byte) := by
  have hmap : Config.recognisedTags =
      ([0x01, 0x02, 0x03, 0x08, 0x11, 0x12, 0x15] : List Byte).map (le16 · 0x00) := rfl
  have hinj (b : Byte) : le16 b 0x00 = le16 t0 t1 ↔ t1 = 0x00 ∧ b = t0 := by
    rw [le16_eq_iff, extract_le16_low, extract_le16_high]
    tauto
  simp only [hmap, List.mem_map, hinj]
  constructor
  · rintro ⟨b, hb, h1, rfl⟩
    exact ⟨h1, hb⟩
  · rintro ⟨h1, h0⟩
    exact ⟨t0, h0, h1, rfl⟩

/-- Settles O6: one clause per recognised kind, and SKIP by its well-formedness. -/
theorem tagsCompareBothBytes : Obligations.TagsCompareBothBytes := by
  intro t0 t1 l0 l1 l2 l3 rest
  refine ⟨decode_kind_iff (tag := 1) rfl rfl rfl, decode_kind_iff (tag := 2) rfl rfl rfl,
    decode_kind_iff (tag := 3) rfl rfl rfl, decode_kind_iff (tag := 8) rfl rfl rfl,
    decode_kind_iff (tag := 17) rfl rfl rfl, decode_kind_iff (tag := 18) rfl rfl rfl,
    decode_kind_iff (tag := 21) rfl rfl rfl, ?_⟩
  rw [decode_record_eq_iff, wellFormed_skip_iff, le16_mem_recognisedTags_iff]
  exact and_iff_left ⟨rfl, rfl⟩

end Sys2Proof
end

section
/-! PROOFS. The statements of 30_encoding.md about streams: what a step does with a record that is
there and fits, the run over a whole list of records, and the residue of the CRC. -/

namespace Sys2Proof.Machine

/-! ## A record that fits -/

section
variable {s : State}

/-- Past the header a step runs the decoded record, if it fits (R116 to R119). -/
theorem step_of_decoded_record {h : List Byte} {i : Instr} {n : U32} (hb : s.status = .busy)
    (h0 : s.cur ≠ 0) (hread : s.buf.memRead s.cur Config.recHdrLen = some h)
    (hdec : decode .tlv h = .ok i) (hn : i.recordLen? = some n)
    (hfits : s.cur + Config.recHdrLen + n.toNat ≤ s.buf.len) :
    step s = retireOutcome i (exec i s) := by
  have hlong := Memory.memRead_bounds hread
  have hend : s.cur ≠ s.buf.len := by
    simp only [Config.recHdrLen] at hlong
    omega
  have hfetch : fetch s = .run i := by
    simp only [fetch, fetchRecord, if_neg h0, if_neg hend, if_neg (Nat.not_lt.mpr hlong), hread,
      hdec, hn, State.payloadStart, Option.map_some, Option.getD_some,
      if_neg (Nat.not_lt.mpr hfits)]
  rw [step_of_busy hb, parserStep, hfetch]

/-- Settles O13: the tag map answers SKIP, which has no effect, and the step advances. -/
theorem unrecognisedRecordOnlyAdvances : Obligations.UnrecognisedRecordOnlyAdvances := by
  intro s t0 t1 l0 l1 l2 l3 hb h0 hread htag hfits
  have hdec : decode .tlv [t0, t1, l0, l1, l2, l3] =
      .ok (.skip (le16 t0 t1) (le32 l0 l1 l2 l3)) := by
    rw [decode, decodeRecord_six, recordOf_of_not_recognised htag]
  rw [step_of_decoded_record hb h0 hread hdec rfl hfits]
  rfl

/-- A record that fits in a canonical buffer completes (R119, R182). -/
theorem exec_record_next {i : Instr} {n : U32} (hn : i.recordLen? = some n)
    (hm : s.buf.wf = true) (hfits : s.cur + Config.recHdrLen + n.toNat ≤ s.buf.len) :
    ∃ u, exec i s = .next u := by
  simp only [Config.recHdrLen] at hfits
  cases i with
  | buildtool | chiptype | name | bitstream | ramM4k | skip => exact ⟨_, rfl⟩
  | crc16 m =>
    cases hn
    by_cases hshort : n.toNat < Config.crc16Payload
    · exact ⟨s, if_pos hshort⟩
    · simp only [Config.crc16Payload] at hshort
      obtain ⟨_, _, -, hp⟩ := State.payload16_of_wf hm (by omega)
      simp only [exec, execCrc16, Config.crc16Payload, if_neg hshort, hp]
      exact ⟨_, rfl⟩
  | package m =>
    cases hn
    by_cases hshort : n.toNat < Config.packagePayload
    · exact ⟨s, if_pos hshort⟩
    · simp only [Config.packagePayload] at hshort
      obtain ⟨_, _, _, _, -, hp⟩ := State.payload32_of_wf hm (by omega)
      simp only [exec, execPackage, Config.packagePayload, if_neg hshort, hp]
      exact ⟨_, rfl⟩
  | sof | reset | tblInit | crcSeed | crcByte | crcCompute | parse | crcCheck => cases hn

/-- No record writes `MODE` (R33, R119). -/
theorem RecordEffect.mode_eq {n : U32} {u : State} (h : RecordEffect n s u) : u.mode = s.mode := by
  cases h with
  | crc tx => exact State.crcCheck_mode _ _
  | none | slice | package => rfl

/-- A CRC16 record with a whole payload sets `CRC_SEEN` (R133). -/
theorem exec_crc16_crcSeen {n : U32} {u : State} (hn : Config.crc16Payload ≤ n.toNat)
    (h : exec (.crc16 n) s = .next u) : u.res.crcSeen = true := by
  simp only [exec, execCrc16, if_neg (Nat.not_lt.mpr hn)] at h
  split at h
  · cases h
  · cases h
    rw [State.crcCheck_res]
    rfl

end

/-! ## The layout of a stream -/

/-- A read finds the bytes where they were laid out (R50, R52). -/
theorem Memory.memRead_middle (pre mid post : List Byte) :
    (Memory.ofBytes (pre ++ (mid ++ post))).memRead pre.length mid.length = some mid := by
  rw [Memory.memRead_ofBytes, if_pos (by simp), List.drop_left, List.take_left]

/-- The bytes of records given by tag and payload (R84). -/
def recordsBytes (records : List (U16 × List Byte)) : List Byte :=
  records.flatMap fun r => recBytes r.1 r.2

@[simp] theorem recordsBytes_cons (r : U16 × List Byte) (records : List (U16 × List Byte)) :
    recordsBytes (r :: records) = recBytes r.1 r.2 ++ recordsBytes records := rfl

theorem encodeHeader_length (reserved : List Byte) :
    (encodeHeader reserved).length = 4 + reserved.length := by
  rw [encodeHeader, List.length_append]
  rfl

/-- Assembling records appends their bytes (R84). -/
theorem foldl_bytes_records (v : CrcVariant) (records : List (U16 × List Byte))
    (bs : List Byte) :
    (records.map fun r => Stmt.record r.1 r.2).foldl (fun bs s => bs ++ s.bytes v bs) bs =
      bs ++ recordsBytes records := by
  induction records generalizing bs with
  | nil => simp [recordsBytes]
  | cons r records ih =>
    rw [List.map_cons, List.foldl_cons, ih, recordsBytes_cons, List.append_assoc]
    rfl

/-- The stream of R85: header, records, and the trailing `CRC16 auto`. -/
theorem assemble_auto (v : CrcVariant) (reserved : List Byte)
    (records : List (U16 × List Byte)) :
    assemble v (.sof reserved :: records.map (fun r => .record r.1 r.2) ++ [.crc16Auto]) =
      encodeHeader reserved ++ recordsBytes records ++
        autoRecord v (encodeHeader reserved ++ recordsBytes records) := by
  have hbefore : assemble v (.sof reserved :: records.map fun r => .record r.1 r.2) =
      encodeHeader reserved ++ recordsBytes records :=
    foldl_bytes_records v records (encodeHeader reserved)
  rw [← hbefore]
  exact List.foldl_append

/-! ## The run over a stream -/

/-- A run goes on where a shorter run ended. -/
theorem run_add {j k : Nat} {s t : State} (h : Host.Core.run core j s = .next t) :
    Host.Core.run core (j + k) s = Host.Core.run core k t := by
  induction j generalizing s with
  | zero => cases h; rw [Nat.zero_add]
  | succ j ih =>
    rw [Nat.add_right_comm]
    cases hs : core.step s with
    | next u =>
      rw [run_succ _ hs] at h ⊢
      exact ih h
    | fault r => simp [Host.Core.run, hs] at h
    | refused r => simp [Host.Core.run, hs] at h

/-- A machine in the middle of a `PARSE` of `bs` in `mode`, with the cursor at `cur`. -/
structure ParseAt (bs : List Byte) (mode : CrcMode) (cur : Nat) (s : State) : Prop where
  inv : Invariant s
  busy : s.status = .busy
  mode_eq : s.mode = mode
  buf_eq : s.buf = .ofBytes bs
  cur_eq : s.cur = cur

section
variable {bs : List Byte} {mode : CrcMode} {s : State}

/-- `PARSE` starts at offset 0, given a usable table (R111). -/
theorem parseAt_start (hT : TblInv s) (bs : List Byte) (mode : CrcMode) :
    ParseAt bs mode 0 (s.start bs mode) where
  inv := .of_empty (Memory.ofBytes_wf bs) hT ⟨rfl, .inl ⟨rfl, rfl⟩⟩ rfl
  busy := rfl
  mode_eq := rfl
  buf_eq := rfl
  cur_eq := rfl

/-- The header of a stream is accepted (R113). -/
theorem ParseAt.step_header {reserved rest : List Byte} (hr : reserved.length = 12)
    (hbs : bs = encodeHeader reserved ++ rest) (h : ParseAt bs mode 0 s) :
    step s = .next s.acceptHeader ∧ ParseAt bs mode Config.hdrLen s.acceptHeader := by
  have hlen : Config.hdrLen ≤ s.buf.len := by
    rw [h.buf_eq, hbs, Memory.len_ofBytes, List.length_append, encodeHeader_length, hr,
      Config.hdrLen]
    omega
  have hlen4 : ¬ s.buf.len < Config.magicLen := by
    simp only [Config.hdrLen, Config.magicLen] at hlen ⊢
    omega
  have hread : s.buf.memRead 0 Config.magicLen = some (bytesBE32 Config.magic) := by
    rw [h.buf_eq, hbs, encodeHeader, List.append_assoc]
    exact Memory.memRead_middle [] (bytesBE32 Config.magic) (reserved ++ rest)
  have hmagic : s.headerMagic = some Config.magic := by
    rw [State.headerMagic, hread]
    rfl
  have hexec : exec .sof s = .next s.acceptHeader := by
    simp only [exec, execSof, if_neg hlen4, hmagic, ne_eq, not_true_eq_false, if_false,
      if_neg (Nat.not_lt.mpr hlen)]
  have hstep : step s = .next s.acceptHeader := by
    simp only [step_of_busy h.busy, parserStep, fetch, if_pos h.cur_eq, hexec]
    rfl
  exact ⟨hstep, everyStepKeepsInvariant s _ h.inv hstep, h.busy, h.mode_eq, h.buf_eq, rfl⟩

/-- A record of a stream is executed and the cursor goes to its end (R119, R120). -/
theorem ParseAt.step_record {pre p post : List Byte} {tag : U16} (hpre : pre ≠ [])
    (hp : p.length < 2 ^ 32) (hbs : bs = pre ++ recBytes tag p ++ post)
    (h : ParseAt bs mode pre.length s) :
    ∃ u, exec (recordOf tag (BitVec.ofNat 32 p.length)) s = .next u ∧
      step s = .next (u.advance (BitVec.ofNat 32 p.length)) ∧
      ParseAt bs mode (pre ++ recBytes tag p).length (u.advance (BitVec.ofNat 32 p.length)) := by
  set n : U32 := BitVec.ofNat 32 p.length with hndef
  have hn : n.toNat = p.length := by
    rw [hndef, BitVec.toNat_ofNat, Nat.mod_eq_of_lt hp]
  have hrec : recBytes tag p = encodeRecordHeader tag n ++ p := rfl
  have h0 : s.cur ≠ 0 := by rw [h.cur_eq]; exact mt List.length_eq_zero_iff.mp hpre
  have hread : s.buf.memRead s.cur Config.recHdrLen = some (encodeRecordHeader tag n) := by
    rw [h.buf_eq, h.cur_eq, hbs, hrec, List.append_assoc, List.append_assoc]
    exact Memory.memRead_middle pre (encodeRecordHeader tag n) (p ++ post)
  have hfits : s.cur + Config.recHdrLen + n.toNat ≤ s.buf.len := by
    rw [h.buf_eq, h.cur_eq, hbs, hrec, hn]
    simp only [Memory.len_ofBytes, List.length_append, encodeRecordHeader_length,
      Config.recHdrLen]
    omega
  have hdec : decode .tlv (encodeRecordHeader tag n) = .ok (recordOf tag n) := by
    simpa using decode_encodeRecordHeader tag n []
  obtain ⟨u, hu⟩ := exec_record_next (recordOf_recordLen? tag n) h.inv.memory hfits
  have hstep : step s = .next (u.advance n) := by
    rw [step_of_decoded_record h.busy h0 hread hdec (recordOf_recordLen? tag n) hfits, hu,
      retireOutcome, State.retire_of_some _ n u (recordOf_recordLen? tag n)]
  have heff := exec_record_effect (recordOf_recordLen? tag n) hu
  obtain ⟨hstatus, hcur, -, hbuf⟩ := heff.sameControl
  refine ⟨u, hu, hstep, everyStepKeepsInvariant s _ h.inv hstep, hstatus.trans h.busy,
    heff.mode_eq.trans h.mode_eq, hbuf.trans h.buf_eq, ?_⟩
  rw [State.advance_cur, hcur, h.cur_eq, hn, hrec]
  simp only [List.length_append, encodeRecordHeader_length, Config.recHdrLen]
  omega

/-- A list of records is run through, one step each (R115, R120). -/
theorem ParseAt.run_records {records : List (U16 × List Byte)} {pre post : List Byte}
    (hpre : pre ≠ []) (hlen : ∀ r ∈ records, r.2.length < 2 ^ 32)
    (hbs : bs = pre ++ recordsBytes records ++ post) (h : ParseAt bs mode pre.length s) :
    ∃ t, Host.Core.run core records.length s = .next t ∧
      ParseAt bs mode (pre ++ recordsBytes records).length t := by
  induction records generalizing pre s with
  | nil => exact ⟨s, rfl, by simpa [recordsBytes] using h⟩
  | cons r records ih =>
    obtain ⟨hr, hrest⟩ := List.forall_mem_cons.mp hlen
    rw [recordsBytes_cons, ← List.append_assoc] at hbs ⊢
    obtain ⟨u, -, hstep, hu⟩ := h.step_record hpre hr (hbs.trans (List.append_assoc _ _ _))
    obtain ⟨t, hrun, ht⟩ := ih (List.append_ne_nil_of_left_ne_nil hpre _) hrest hbs hu
    exact ⟨t, (run_succ _ hstep).trans hrun, ht⟩

/-- At the end of the stream the run is OK (R122). -/
theorem ParseAt.step_complete (hbs : bs ≠ []) (h : ParseAt bs mode bs.length s) :
    step s = .next s.complete := by
  have h0 : s.cur ≠ 0 := by rw [h.cur_eq]; exact mt List.length_eq_zero_iff.mp hbs
  have hend : s.cur = s.buf.len := by rw [h.cur_eq, h.buf_eq, Memory.len_ofBytes]
  rw [step_of_busy h.busy, parserStep, fetch, if_neg h0, if_pos hend]

/-- Once a CRC16 record was seen, the CRC registers are those of the whole stream (R32, R101). -/
theorem ParseAt.crcFields {cur : Nat} (h : ParseAt bs mode cur s)
    (hseen : s.res.crcSeen = true) :
    s.res.crcComputed = crcComplement Config.crcVariant bs ∧
      s.res.crcValid = crcVerdict mode (crcComplement Config.crcVariant bs) s.res.crcTx := by
  have hcrc := h.inv.crcFields
  rw [CrcInv, if_pos hseen, h.buf_eq, Memory.bytes_ofBytes, h.mode_eq] at hcrc
  obtain ⟨hc, hv⟩ := hcrc
  exact ⟨hc, hc ▸ hv⟩

end

/-! ## The residue -/

/-- A byte of the complement is the complement of the byte. -/
theorem extract_not (a : U16) {k : Nat} (hk : k + 8 ≤ 16) :
    (~~~a).extractLsb' k 8 = ~~~(a.extractLsb' k 8) := by
  apply BitVec.eq_of_getLsbD_eq
  intro i hi
  simp [hi, show k + i < 16 by omega]

/-- The low byte of the accumulator meets its own complement: the first look-up is at 0xFF
(R100). -/
theorem tblIndex_complement_low (a : U16) :
    tblIndex .lsbFirst a ((~~~a).extractLsb' 0 8) = 0xFF := by
  rw [tblIndex, extract_not a (by decide), ← BitVec.not_xor_right, BitVec.xor_self]
  rfl

/-- What is left of the accumulator then is its high byte, which meets its own complement too: the
second look-up is at 0x87 (R100). -/
theorem tblIndex_complement_high (a : U16) :
    tblIndex .lsbFirst (a >>> 8 ^^^ 0x0F78) ((~~~a).extractLsb' 8 8) = 0x87 := by
  have hhigh : (a >>> 8).extractLsb' 0 8 = a.extractLsb' 8 8 := by
    apply BitVec.eq_of_getLsbD_eq
    intro i hi
    simp
  rw [tblIndex, BitVec.extractLsb'_xor, hhigh, extract_not a (by decide), ← BitVec.not_xor_right,
    BitVec.xor_comm, ← BitVec.xor_assoc, BitVec.xor_self]
  rfl

/-- Absorbing the complement of the accumulator, low byte first, leaves the residue (R100). -/
theorem crc_complement_bytes (a : U16) :
    crc .lsbFirst (builtTbl .lsbFirst) a (bytesLE16 (~~~a)) = 0xF0B8 := by
  have hfirst : upd .lsbFirst (builtTbl .lsbFirst) a ((~~~a).extractLsb' 0 8) =
      a >>> 8 ^^^ 0x0F78 := by
    rw [upd_builtTbl, tblIndex_complement_low]
    rfl
  have hshift : (a >>> 8 ^^^ 0x0F78) >>> 8 = 0x000F := by
    rw [BitVec.ushiftRight_xor_distrib, ← BitVec.shiftRight_add,
      BitVec.ushiftRight_eq_zero (by decide)]
    rfl
  rw [bytesLE16, crc_cons, crc_cons, crc_nil, hfirst, upd_builtTbl, tblIndex_complement_high,
    shiftByte, hshift]
  rfl

/-- A sequence followed by its complemented CRC has the constant of R101 as its complemented CRC. -/
theorem crcComplement_append_complement (m : List Byte) :
    crcComplement .lsbFirst (m ++ bytesLE16 (crcComplement .lsbFirst m)) = Config.checkConst := by
  have happ : crc .lsbFirst (builtTbl .lsbFirst) Config.seed
      (m ++ bytesLE16 (crcComplement .lsbFirst m)) = 0xF0B8 := by
    rw [crc, List.foldl_append]
    exact crc_complement_bytes _
  rw [crcComplement, happ]
  rfl

/-- `CRC16 auto` is a CRC16 record of two bytes that makes the stream so far check out (R85). -/
theorem autoRecord_eq_recBytes (before : List Byte) :
    ∃ p, p.length = 2 ∧ autoRecord .lsbFirst before = recBytes Config.tagCrc16 p ∧
      crcComplement .lsbFirst (before ++ recBytes Config.tagCrc16 p) = Config.checkConst := by
  have hcheck := crcComplement_append_complement (before ++ encodeRecordHeader Config.tagCrc16 2)
  rw [List.append_assoc] at hcheck
  exact ⟨bytesLE16 (crcComplement .lsbFirst (before ++ encodeRecordHeader Config.tagCrc16 2)),
    rfl, rfl, hcheck⟩

/-- A stream of a header, records and a last CRC16 record with a whole payload runs to its end, and
leaves the CRC fields of the whole stream (R101, R122, R133). -/
theorem run_stream_crc16 {s : State} {bs reserved p : List Byte}
    {records : List (U16 × List Byte)} (mode : CrcMode) (hT : TblInv s)
    (hr : reserved.length = 12) (hlen : ∀ r ∈ records, r.2.length < 2 ^ 32) (hp : p.length = 2)
    (hbs : bs = encodeHeader reserved ++ recordsBytes records ++ recBytes Config.tagCrc16 p) :
    ∃ k t, Host.Core.run core k (s.start bs mode) = .next t ∧ t.status = .ok ∧
      t.res.crcSeen = true ∧ t.res.crcComputed = crcComplement Config.crcVariant bs ∧
      t.res.crcValid = crcVerdict mode (crcComplement Config.crcVariant bs) t.res.crcTx := by
  have hne : encodeHeader reserved ≠ [] := List.cons_ne_nil _ _
  have hne' : encodeHeader reserved ++ recordsBytes records ≠ [] :=
    List.append_ne_nil_of_left_ne_nil hne _
  have hhdr : Config.hdrLen = (encodeHeader reserved).length := by
    rw [encodeHeader_length, hr, Config.hdrLen]
  obtain ⟨hstep, hat⟩ :=
    (parseAt_start hT bs mode).step_header hr (hbs.trans (List.append_assoc _ _ _))
  obtain ⟨t, hrun, hat⟩ := (hhdr ▸ hat).run_records hne hlen hbs
  obtain ⟨u, hexec, hcrc, hat⟩ := hat.step_record (post := []) hne' (by rw [hp]; decide)
    (by rw [List.append_nil, hbs])
  rw [← hbs] at hat
  have hseen : u.res.crcSeen = true := exec_crc16_crcSeen (by rw [hp]; decide) hexec
  have hlast := hat.step_complete (by rw [hbs]; exact List.append_ne_nil_of_left_ne_nil hne' _)
  have hall : Host.Core.run core (records.length + 2 + 1) (s.start bs mode) =
      .next (u.advance (BitVec.ofNat 32 p.length)).complete :=
    calc Host.Core.run core (records.length + 2 + 1) (s.start bs mode)
      _ = Host.Core.run core (records.length + 2) (s.start bs mode).acceptHeader :=
        run_succ _ hstep
      _ = Host.Core.run core 2 t := run_add hrun
      _ = Host.Core.run core 1 (u.advance (BitVec.ofNat 32 p.length)) := run_succ 1 hcrc
      _ = .next _ := run_one hlast
  exact ⟨_, _, hall, rfl, hseen, hat.crcFields hseen⟩

/-- Settles O49: the run ends with the CRC fields of the whole stream, and `CRC16 auto` has made its
CRC the constant. -/
theorem autoStreamValidates : Obligations.AutoStreamValidates := by
  intro s reserved records hT hr hlen
  obtain ⟨p, hp, hauto, hcheck⟩ :=
    autoRecord_eq_recBytes (encodeHeader reserved ++ recordsBytes records)
  obtain ⟨k, t, hrun, hok, hseen, hcomputed, hvalid⟩ :=
    run_stream_crc16 .const hT hr hlen hp rfl
  rw [assemble_auto, hauto]
  refine ⟨_, k, t, rfl, hrun, hok, hseen, hcomputed.trans hcheck, ?_⟩
  rw [hvalid, Config.crcVariant, hcheck]
  rfl

end Sys2Proof.Machine
end

section
/-! PROOFS. The statements of 40_crc_engine.md. First the bit-serial step: it is additive and
injective, and the MSB-first step is the LSB-first one read backwards, so that the table update is
eight steps in both variants. Then what the engine's operations leave in the machine. -/

namespace Sys2Proof.Machine

/-! ## The reflected step, bit by bit -/

/-- The step moves every bit down by one, and adds the polynomial exactly when the bit shifted out
is 1 (R91, R102). -/
theorem getLsbD_lsbStep (c : U16) (i : Nat) :
    (lsbStep c).getLsbD i =
      (c.getLsbD (1 + i) ^^ (c.getLsbD 0 && Config.polyRefl.getLsbD i)) := by
  unfold lsbStep
  cases c.getLsbD 0 <;> simp [-BitVec.getLsbD_eq_getElem]

/-- The step is linear over the field of two elements. -/
theorem lsbStep_xor (x y : U16) : lsbStep (x ^^^ y) = lsbStep x ^^^ lsbStep y := by
  apply BitVec.eq_of_getLsbD_eq
  intro i _
  simp only [getLsbD_lsbStep, BitVec.getLsbD_xor, Bool.and_xor_distrib_right]
  rw [Bool.xor_assoc, Bool.xor_assoc, Bool.xor_left_comm (y.getLsbD _)]

theorem eightTimes_lsbStep_xor (x y : U16) :
    eightTimes lsbStep (x ^^^ y) = eightTimes lsbStep x ^^^ eightTimes lsbStep y := by
  simp only [eightTimes, lsbStep_xor]

/-- The top bit of a step is the bit shifted out, so the step can be undone. -/
theorem lsbStep_injective : Function.Injective lsbStep := by
  intro x y h
  have hbit (i : Nat) := congrArg (BitVec.getLsbD · i) h
  simp only [getLsbD_lsbStep] at hbit
  have hout : x.getLsbD 0 = y.getLsbD 0 := by
    simpa [Config.polyRefl] using hbit 15
  apply BitVec.eq_of_getLsbD_eq
  rintro (_ | i) _
  · exact hout
  · rw [Nat.add_comm]
    simpa only [hout, Bool.xor_left_inj] using hbit i

theorem eightTimes_injective {f : U16 → U16} (hf : Function.Injective f) :
    Function.Injective (eightTimes f) :=
  ((((((hf.comp hf).comp hf).comp hf).comp hf).comp hf).comp hf).comp hf

/-- A step that shifts a zero out is a shift; here the zeros stand below the high byte. -/
theorem lsbStep_highByte_shiftLeft (a : U16) {k : Nat} (hk : k < 8) :
    lsbStep ((a >>> 8) <<< (k + 1)) = (a >>> 8) <<< k := by
  apply BitVec.eq_of_getLsbD_eq
  intro i hi
  have hdown : ((a >>> 8) <<< (k + 1)).getLsbD (1 + i) = ((a >>> 8) <<< k).getLsbD i := by
    have hpos : 1 + i - (k + 1) = i - k := by omega
    have hlow : 1 + i < k + 1 ↔ i < k := by omega
    simp only [BitVec.getLsbD_shiftLeft, BitVec.getLsbD_ushiftRight, hpos, hlow, hi]
    by_cases htop : 1 + i < 16
    · simp only [htop]
    · have hout : a.getLsbD (8 + (i - k)) = false := BitVec.getLsbD_of_ge a _ (by omega)
      simp only [hout, Bool.and_false]
  have hzero : ((a >>> 8) <<< (k + 1)).getLsbD 0 = false := by
    simp [-BitVec.getLsbD_eq_getElem]
  rw [getLsbD_lsbStep, hzero, hdown, Bool.false_and, Bool.xor_false]

/-- Eight steps bring a high byte down unchanged (R102). -/
theorem eightTimes_lsbStep_highByte (a : U16) :
    eightTimes lsbStep ((a >>> 8) <<< 8) = a >>> 8 := by
  simp [eightTimes, lsbStep_highByte_shiftLeft]

/-! ## The two variants are mirror images -/

theorem reverse_xor {w : Nat} (x y : BitVec w) :
    (x ^^^ y).reverse = x.reverse ^^^ y.reverse := by
  apply BitVec.eq_of_getLsbD_eq
  intro i _
  simp only [BitVec.getLsbD_reverse, BitVec.getLsbD_xor, BitVec.getMsbD_xor]

theorem reverse_shiftLeft {w : Nat} (x : BitVec w) (n : Nat) :
    (x <<< n).reverse = x.reverse >>> n := by
  apply BitVec.eq_of_getLsbD_eq
  intro i _
  rw [BitVec.getLsbD_reverse, BitVec.getMsbD_shiftLeft, BitVec.getLsbD_ushiftRight,
    BitVec.getLsbD_reverse, Nat.add_comm]

/-- Read backwards, the MSB-first step is the reflected one: `Config.polyRefl` is `Config.poly` read
backwards (R91, R92). -/
theorem reverse_msbStep (c : U16) : (msbStep c).reverse = lsbStep c.reverse := by
  have hpoly : Config.poly.reverse = Config.polyRefl := by decide
  have hout : c.reverse.getLsbD 0 = c.getLsbD 15 := BitVec.getLsbD_reverse
  simp only [msbStep, lsbStep, hout]
  split
  · rw [reverse_xor, reverse_shiftLeft, hpoly]
  · rw [reverse_shiftLeft]

theorem reverse_eightTimes_msbStep (c : U16) :
    (eightTimes msbStep c).reverse = eightTimes lsbStep c.reverse := by
  simp only [eightTimes, reverse_msbStep]

theorem reverse_alignByte (b : Byte) :
    (alignByte .msbFirst b).reverse = alignByte .lsbFirst b.reverse := by
  apply BitVec.eq_of_getLsbD_eq
  intro i hi
  simp [alignByte, hi, BitVec.getLsbD_reverse, BitVec.getMsbD_shiftLeft, BitVec.getMsbD_setWidth,
    -BitVec.getLsbD_eq_getElem]

theorem reverse_tblEntry (b : Byte) :
    (tblEntry .msbFirst b).reverse = tblEntry .lsbFirst b.reverse := by
  simp only [tblEntry, crcStep, reverse_eightTimes_msbStep, reverse_alignByte]

theorem reverse_tblIndex (a : U16) (b : Byte) :
    (tblIndex .msbFirst a b).reverse = tblIndex .lsbFirst a.reverse b.reverse := by
  have hbyte : (a.extractLsb' 8 8).reverse = a.reverse.extractLsb' 0 8 := by
    apply BitVec.eq_of_getLsbD_eq
    intro i hi
    have htop : 16 - (8 + 8 - i) = i := by omega
    simp [hi, htop, BitVec.getLsbD_reverse, BitVec.getLsbD_extractLsb',
      BitVec.getMsbD_extractLsb', -BitVec.getLsbD_eq_getElem]
  rw [tblIndex, tblIndex, reverse_xor, hbyte]

/-- Read backwards, the MSB-first update is the reflected one (R96, R97). -/
theorem reverse_upd_builtTbl (a : U16) (b : Byte) :
    (upd .msbFirst (builtTbl .msbFirst) a b).reverse =
      upd .lsbFirst (builtTbl .lsbFirst) a.reverse b.reverse := by
  simp only [upd_builtTbl, reverse_xor, reverse_tblEntry, reverse_tblIndex, shiftByte,
    reverse_shiftLeft]

/-! ## The table update is eight steps -/

/-- The low byte of the accumulator meets the data byte, the high byte stays (R96, R102). -/
theorem xor_alignByte_lsb (a : U16) (b : Byte) :
    a ^^^ alignByte .lsbFirst b =
      (a >>> 8) <<< 8 ^^^ alignByte .lsbFirst (tblIndex .lsbFirst a b) := by
  apply BitVec.eq_of_getLsbD_eq
  intro i hi
  by_cases hlow : i < 8
  · simp [alignByte, tblIndex, hi, hlow, -BitVec.getLsbD_eq_getElem]
  · have hpos : 8 + (i - 8) = i := by omega
    simp [alignByte, tblIndex, hi, hlow, hpos, -BitVec.getLsbD_eq_getElem]

theorem upd_lsb_eq_eightTimes (a : U16) (b : Byte) :
    upd .lsbFirst (builtTbl .lsbFirst) a b = eightTimes lsbStep (a ^^^ alignByte .lsbFirst b) := by
  rw [xor_alignByte_lsb, eightTimes_lsbStep_xor, eightTimes_lsbStep_highByte, upd_builtTbl]
  rfl

theorem upd_msb_eq_eightTimes (a : U16) (b : Byte) :
    upd .msbFirst (builtTbl .msbFirst) a b = eightTimes msbStep (a ^^^ alignByte .msbFirst b) := by
  have hrev : (upd .msbFirst (builtTbl .msbFirst) a b).reverse =
      (eightTimes msbStep (a ^^^ alignByte .msbFirst b)).reverse := by
    rw [reverse_upd_builtTbl, upd_lsb_eq_eightTimes, reverse_eightTimes_msbStep, reverse_xor,
      reverse_alignByte]
  rw [← BitVec.reverse_reverse_eq (x := upd _ _ a b), hrev, BitVec.reverse_reverse_eq]

/-- Settles O28: the reflected variant by linearity, the other one as its mirror image. -/
theorem tableUpdateIsBitSerial : Obligations.TableUpdateIsBitSerial :=
  fun a b => ⟨upd_lsb_eq_eightTimes a b, upd_msb_eq_eightTimes a b⟩

/-- Settles O27, as the two steps are mirror images. -/
theorem tablesAreBitReversals : Obligations.TablesAreBitReversals :=
  fun i => (reverse_tblEntry i).symm

/-- Settles O26: eleven closed values. -/
theorem tableSpotValues : Obligations.TableSpotValues := by
  unfold Obligations.TableSpotValues
  decide

/-! ## The CRC of a message -/

theorem crc_append (v : CrcVariant) (t : Table) (s : U16) (x y : List Byte) :
    crc v t s (x ++ y) = crc v t (crc v t s x) y :=
  List.foldl_append

theorem xor_ffff_eq_not (a : U16) : a ^^^ 0xFFFF = ~~~a := BitVec.xor_allOnes

/-- Settles O29: whatever the message left in the accumulator, absorbing its complement leaves the
residue. -/
theorem residueIsConstant : Obligations.ResidueIsConstant := by
  rintro seed c m rfl
  refine ⟨?_, rfl⟩
  rw [crc_append, xor_ffff_eq_not]
  exact crc_complement_bytes _

/-- Different bytes take one accumulator to different ones. -/
theorem upd_byte_injective (a : U16) :
    Function.Injective (upd .lsbFirst (builtTbl .lsbFirst) a) := by
  intro b b' h
  rw [upd_lsb_eq_eightTimes, upd_lsb_eq_eightTimes] at h
  have halign : alignByte .lsbFirst b = alignByte .lsbFirst b' :=
    (BitVec.xor_right_inj a).mp (eightTimes_injective lsbStep_injective h)
  have hwidth := congrArg (BitVec.setWidth 8) halign
  simpa [alignByte] using hwidth

/-- The same byte keeps different accumulators different. -/
theorem upd_acc_injective (b : Byte) :
    Function.Injective (upd .lsbFirst (builtTbl .lsbFirst) · b) := by
  intro a a' h
  simp only [upd_lsb_eq_eightTimes] at h
  exact (BitVec.xor_left_inj _).mp (eightTimes_injective lsbStep_injective h)

/-- The same message keeps different seeds different. -/
theorem crc_seed_injective (data : List Byte) :
    Function.Injective (crc .lsbFirst (builtTbl .lsbFirst) · data) := by
  induction data with
  | nil => exact fun _ _ h => h
  | cons b data ih => exact ih.comp (upd_acc_injective b)

/-- Settles O30: the changed byte makes the accumulators differ, and the rest of the message keeps
them so. -/
theorem crcDetectsOneByteChange : Obligations.CrcDetectsOneByteChange := by
  intro seed x y b b' hne h
  simp only [crc_append, crc_cons] at h
  exact hne (upd_byte_injective _ (crc_seed_injective y h))

/-! ## The engine's operations on the machine -/

section
variable {s : State}

/-- What absorbing data leaves (R94, R98, R99). -/
theorem State.absorb_eq (hT : TblInv s) (a : U16) (data : List Byte) :
    s.absorb a data =
      { s with
        tbl := builtTbl .lsbFirst
        tblValid := true
        acc := crc .lsbFirst (builtTbl .lsbFirst) a data } := by
  rw [State.absorb, State.ensureTbl_eq_buildTbl hT]
  rfl

/-- What checking the whole buffer leaves (R101). -/
theorem State.crcCheck_eq (hT : TblInv s) (tx : U16) :
    s.crcCheck tx =
      { s with
        tbl := builtTbl .lsbFirst
        tblValid := true
        acc := crc .lsbFirst (builtTbl .lsbFirst) 0xFFFF s.buf.bytes
        res := { s.res with
          crcComputed := ~~~crc .lsbFirst (builtTbl .lsbFirst) 0xFFFF s.buf.bytes
          crcValid := crcVerdict s.mode
            (~~~crc .lsbFirst (builtTbl .lsbFirst) 0xFFFF s.buf.bytes) tx } } := by
  rw [State.crcCheck, State.absorb_eq hT]
  rfl

/-- Building a usable table first does not show in what is absorbed (R94). -/
theorem State.absorb_buildTbl (hT : TblInv s) (a : U16) (data : List Byte) :
    s.buildTbl.absorb a data = s.absorb a data := by
  rw [State.absorb_eq hT, State.absorb_eq (fun _ => rfl)]
  rfl

theorem State.crcCheck_buildTbl (hT : TblInv s) (tx : U16) :
    s.buildTbl.crcCheck tx = s.crcCheck tx := by
  rw [State.crcCheck_eq hT, State.crcCheck_eq (fun _ => rfl)]
  rfl

end

/-- The verdict is one comparison, with the constant of the mode (R33, R101). -/
theorem crcVerdict_eq_decide (mode : CrcMode) (v tx : U16) :
    crcVerdict mode v tx = decide (v = if mode = .const then 0x0F47 else tx) := by
  cases mode <;> rfl

/-- Reading the whole of a canonical buffer gives all its bytes (R52, R64). -/
theorem Memory.memRead_whole {m : Memory} (hm : m.wf = true) :
    m.memRead 0 m.len = some m.bytes := by
  rw [Memory.memRead_of_wf hm, Nat.zero_add, if_pos le_rfl, List.drop_zero, ← Memory.length_bytes,
    List.take_length]

/-- The update of the decided variant, with its index as the low byte (R96). -/
theorem upd_lsb_eq (a : U16) (b : Byte) :
    upd .lsbFirst (builtTbl .lsbFirst) a b =
      a >>> 8 ^^^ tblEntry .lsbFirst (a.setWidth 8 ^^^ b) := by
  rw [upd_builtTbl, BitVec.setWidth_eq_extractLsb' (by decide)]
  rfl

/-- Settles O11, by what the check leaves and by the whole read. -/
theorem crcCheckValidates : Obligations.CrcCheckValidates := by
  intro s tx hm hT
  refine ⟨s.buf.bytes, Memory.memRead_whole hm, ?_⟩
  rw [xor_ffff_eq_not, ← crcVerdict_eq_decide, ← State.crcCheck_eq hT]
  rfl

/-- Settles O21, by what absorbing one byte leaves. -/
theorem crcByteUpdatesAccumulator : Obligations.CrcByteUpdatesAccumulator := by
  intro s b hT
  rw [← upd_lsb_eq]
  exact congrArg Host.Outcome.next (State.absorb_eq hT s.acc [b])

/-- Settles O22, by what absorbing data leaves. -/
theorem crcComputeFoldsUpdate : Obligations.CrcComputeFoldsUpdate := by
  intro s seed data hT
  simp only [← upd_lsb_eq]
  exact congrArg Host.Outcome.next (State.absorb_eq hT seed data)

/-- Settles O24: TBL_INIT leaves a built table, and each use builds it anyway. -/
theorem lazyBuildIsUnobservable : Obligations.LazyBuildIsUnobservable := by
  rintro s _ b seed tx data hT ⟨⟩
  exact ⟨congrArg Host.Outcome.next (State.absorb_buildTbl hT s.acc [b]),
    congrArg Host.Outcome.next (State.absorb_buildTbl hT seed data),
    congrArg Host.Outcome.next (State.crcCheck_buildTbl hT tx)⟩

/-- Settles O19, by what the built table holds. -/
theorem tblInitBuildsEveryEntry : Obligations.TblInitBuildsEveryEntry :=
  fun s => ⟨s.buildTbl, rfl, rfl, tblRead_builtTbl .lsbFirst, rfl, rfl⟩

/-- Settles O20, by the instruction's own meaning. -/
theorem crcSeedLoadsAccumulator : Obligations.CrcSeedLoadsAccumulator := fun _ _ => rfl

/-! ## A run of CRC_BYTE operations -/

theorem tblInv_setPending {s : State} (hT : TblInv s) (ops : List HostOp) :
    TblInv (s.setPending ops) := hT

/-- A step issues the oldest pending operation (R10). -/
theorem step_of_pending {s : State} {op : HostOp} {ops : List HostOp} (hb : s.status ≠ .busy)
    (hp : s.pending = op :: ops) : step s = exec op.instr (s.setPending ops) :=
  (stepRunsHostOperation s hb).1 op ops hp

/-- One step per pending CRC_BYTE folds the update over the bytes, and leaves the parser's registers
(R98, R99). -/
theorem run_crcBytes {s : State} {data : List Byte} (hT : TblInv s) (hb : s.status ≠ .busy)
    (hp : s.pending = data.map .crcByte) :
    ∃ t, Host.Core.run core data.length s = .next t ∧ t.pending = [] ∧
      t.acc = crc .lsbFirst (builtTbl .lsbFirst) s.acc data ∧ t.res = s.res ∧
      t.status = s.status := by
  induction data generalizing s with
  | nil => exact ⟨s, rfl, hp, rfl, rfl, rfl⟩
  | cons b data ih =>
    have hstep : step s = .next ((s.setPending (data.map .crcByte)).absorb s.acc [b]) :=
      step_of_pending hb hp
    rw [State.absorb_eq (tblInv_setPending hT _)] at hstep
    rw [List.length_cons, run_succ _ hstep]
    exact ih (fun _ => rfl) hb rfl

/-- Settles O23: the seed takes one step, the bytes one step each. -/
theorem seedThenBytesIsCompute : Obligations.SeedThenBytesIsCompute := by
  intro s seed data hT hb hp
  have hseed : step s = .next ((s.setPending (data.map .crcByte)).setAcc seed) :=
    step_of_pending hb hp
  obtain ⟨t, hrun, hpending, hacc, hres, hstatus⟩ :=
    run_crcBytes (s := (s.setPending (data.map .crcByte)).setAcc seed) hT hb rfl
  refine ⟨t, _, (run_succ _ hseed).trans hrun, hpending, rfl, ?_, hres, hstatus⟩
  rw [hacc, State.absorb_eq hT]
  rfl

end Sys2Proof.Machine
end

section
/-! PROOFS. The statements of 41_parser_control.md about single steps and the empty stream. They rest
on what the header step and each kind of busy step do, said as equations. -/

namespace Sys2Proof

/-! ## The magic -/

/-- The four bytes of a `u32` read big-endian, most significant first (R7, R54). -/
theorem bytesBE32_be32 (b0 b1 b2 b3 : Byte) : bytesBE32 (be32 b0 b1 b2 b3) = [b0, b1, b2, b3] :=
  congrArg List.reverse (bytesLE32_le32 b3 b2 b1 b0)

/-- The magic test compares the four bytes (R70, R112). -/
theorem be32_eq_magic_iff {b0 b1 b2 b3 : Byte} :
    be32 b0 b1 b2 b3 = Config.magic ↔ [b0, b1, b2, b3] = [0x53, 0x4F, 0x46, 0x00] := by
  constructor
  · intro h
    rw [← bytesBE32_be32, h]
    rfl
  · rintro ⟨⟩
    rfl

/-- The header decoder is one test of the first bytes and one of the length (R112, R114). -/
theorem decodeHeader_eq (bs : List Byte) :
    decodeHeader bs =
      if bs.take 4 = [0x53, 0x4F, 0x46, 0x00] then
        if bs.length < 16 then .error .shortHeader else .ok .sof
      else .error .badMagic := by
  match bs with
  | b0 :: b1 :: b2 :: b3 :: rest => exact if_congr be32_eq_magic_iff rfl rfl
  | [] | [_] | [_, _] | [_, _, _] => simp [decodeHeader]

/-- The record decoder refuses exactly what is too short for a tag and a length (R116). -/
theorem decodeRecord_eq_error_iff {bs : List Byte} {e : DecodeError} :
    decodeRecord bs = .error e ↔ e = .shortRecord ∧ bs.length < 6 := by
  match bs with
  | t0 :: t1 :: l0 :: l1 :: l2 :: l3 :: rest => simp [decodeRecord_six]
  | [] | [_] | [_, _] | [_, _, _] | [_, _, _, _] | [_, _, _, _, _] =>
    simp [decodeRecord, eq_comm]

/-- Settles O5: the record clause as it stands, the header clauses by the two tests. -/
theorem decodeRefusesByName : Obligations.DecodeRefusesByName := by
  refine ⟨fun bs e => decodeRecord_eq_error_iff, fun bs => ?_, fun bs => ?_, fun bs i => ?_⟩
  all_goals
    rw [decode, decodeHeader_eq]
    by_cases hmagic : bs.take 4 = [0x53, 0x4F, 0x46, 0x00]
    · rw [if_pos hmagic]
      by_cases hlen : bs.length < 16
      · simp [hmagic, hlen]
      · simp [hmagic, hlen, Nat.not_lt.mp hlen, eq_comm]
    · rw [if_neg hmagic]
      simp only [hmagic, Except.error.injEq, reduceCtorEq, ne_eq, not_false_eq_true,
        false_and, and_false]

end Sys2Proof

namespace Sys2Proof.Machine

/-! ## The header step -/

section
variable {s : State}

/-- A read at offset 0 finds `p` exactly when the buffer begins with it (R52). -/
theorem Memory.memRead_zero_iff {m : Memory} (hm : m.wf = true) {p : List Byte} :
    m.memRead 0 p.length = some p ↔ m.bytes.take p.length = p := by
  rw [Memory.memRead_of_wf hm, Nat.zero_add, List.drop_zero]
  split
  · exact Option.some_inj
  · next hlen =>
    refine iff_of_false nofun fun h => hlen ?_
    calc p.length
      _ = (m.bytes.take p.length).length := by rw [h]
      _ ≤ m.bytes.length := List.length_take_le' _ _
      _ = m.len := m.length_bytes

/-- The header step on a canonical buffer: a test of the buffer's first bytes, then one of its
length (R112, R114, R113). -/
theorem exec_sof_eq (hm : s.buf.wf = true) :
    exec .sof s =
      if s.buf.memRead 0 4 = some [0x53, 0x4F, 0x46, 0x00] then
        if s.buf.len < 16 then .next (s.raise (.truncatedRecord 0)) else .next s.acceptHeader
      else .next (s.raise .formatMismatch) := by
  by_cases hlen : s.buf.len < 4
  · have hnone : s.buf.memRead 0 4 = none := by
      rw [Memory.memRead_of_wf hm, if_neg (by omega)]
    rw [hnone, if_neg nofun]
    exact if_pos hlen
  · obtain ⟨b0, b1, b2, b3, hread, hmagic⟩ := State.headerMagic_of_wf hm (Nat.not_lt.mp hlen)
    simp only [exec, execSof, Config.magicLen, if_neg hlen, hmagic, ne_eq, ite_not]
    rw [hread]
    exact if_congr (be32_eq_magic_iff.trans Option.some_inj.symm) rfl rfl

/-- Settles O7: the equation of the header step, a clause for each branch. -/
theorem headerStepOutcomes : Obligations.HeaderStepOutcomes := by
  intro s hm
  rw [exec_sof_eq hm]
  refine ⟨fun hbad => if_neg hbad, fun hmagic hlen => ?_, fun hmagic hlen => ?_⟩
  · rw [if_pos hmagic, if_pos hlen]
    rfl
  · rw [if_pos hmagic, if_neg (Nat.not_lt.mpr hlen)]
    rfl

/-! ## The kinds of busy step -/

/-- At offset 0 a busy step is the header step (R110). -/
theorem step_of_header (hb : s.status = .busy) (h0 : s.cur = 0) : step s = exec .sof s := by
  rw [step_of_busy hb, parserStep, fetch, if_pos h0]
  change retireOutcome .sof (exec .sof s) = _
  cases exec .sof s <;> rfl

/-- At the end of the buffer a busy step completes the run (R122). -/
theorem step_of_end (hb : s.status = .busy) (h0 : s.cur ≠ 0) (hend : s.cur = s.buf.len) :
    step s = .next s.complete := by
  rw [step_of_busy hb, parserStep, fetch, if_neg h0, if_pos hend]

/-- A failed bounds check ends the run (R116, R118). -/
theorem step_of_fetchRecord_raised {e : ParseError} (hb : s.status = .busy) (h0 : s.cur ≠ 0)
    (hend : s.cur ≠ s.buf.len) (hr : fetchRecord s = .raised e) : step s = .next (s.raise e) := by
  rw [step_of_busy hb, parserStep, fetch, if_neg h0, if_neg hend, hr]

/-- Fewer than six bytes are left (R116). -/
theorem fetchRecord_of_short_header (h : s.buf.len < s.cur + Config.recHdrLen) :
    fetchRecord s = .raised (.truncatedRecord s.cur) := if_pos h

/-- The payload passes the end of the buffer (R118). -/
theorem fetchRecord_of_short_payload {h : List Byte} {i : Instr} {n : U32}
    (hread : s.buf.memRead s.cur Config.recHdrLen = some h) (hdec : decode .tlv h = .ok i)
    (hn : i.recordLen? = some n) (hcut : s.buf.len < s.cur + Config.recHdrLen + n.toNat) :
    fetchRecord s = .raised (.truncatedRecord s.cur) := by
  simp only [fetchRecord, if_neg (Nat.not_lt.mpr (Memory.memRead_bounds hread)), hread, hdec, hn,
    State.payloadStart, Option.map_some, Option.getD_some, if_pos hcut]

end

/-- Settles O32. -/
theorem stepRunsHeaderAtOffsetZero : Obligations.StepRunsHeaderAtOffsetZero :=
  fun _ => step_of_header

/-- Settles O35. -/
theorem stepCompletesAtBufferEnd : Obligations.StepCompletesAtBufferEnd :=
  fun _ => step_of_end

/-- Settles O31: the step retires what the record's meaning answers (R119, R120). -/
theorem stepRunsDecodedRecord : Obligations.StepRunsDecodedRecord := by
  intro s h i n hb h0 hread hdec hn hfits
  rw [step_of_decoded_record hb h0 hread hdec hn hfits]
  refine ⟨fun t ht => ?_, fun r hr => ?_, fun r hr => ?_⟩
  · rw [ht, retireOutcome, State.retire_of_some i n t hn]
    rfl
  · rw [hr, retireOutcome]
  · rw [hr, retireOutcome]

/-- Settles O34: the fetch raises at the cursor, by the first check or by the second. -/
theorem recordBoundsChecksRaise : Obligations.RecordBoundsChecksRaise := by
  intro s hb h0 hlt
  have hraise (hr : fetchRecord s = .raised (.truncatedRecord s.cur)) :
      step s = .next { s with errOff := s.cur, status := .errTrunc } :=
    step_of_fetchRecord_raised hb h0 (Nat.ne_of_lt hlt) hr
  refine ⟨fun hshort => hraise (fetchRecord_of_short_header hshort), ?_⟩
  intro t0 t1 l0 l1 l2 l3 hread hcut
  exact hraise (fetchRecord_of_short_payload hread (decodeRecord_six _ _ _ _ _ _ [])
    (recordOf_recordLen? _ _) hcut)

/-- Settles O39: only an accepted header or a record leaves the run going, and the one moves the
cursor to 16, the other by its whole length (R113, R120). -/
theorem runningStepAdvances : Obligations.RunningStepAdvances := by
  intro s t hb h hbt
  rcases parserStep_cases (step_of_busy hb ▸ h) with
    ⟨h0, hsof⟩ | ⟨-, -, rfl⟩ | ⟨-, -, rfl⟩ | ⟨-, -, _, _, _, _, _, _, u, -, hfits, hu, rfl⟩
  · rcases exec_sof_cases hsof with rfl | rfl | ⟨hlen, rfl⟩
    · cases hbt
    · cases hbt
    · rw [h0, State.acceptHeader_cur]
      exact ⟨by decide, hlen⟩
  · cases hbt
  · cases hbt
  · obtain ⟨-, hcur, -, hbuf⟩ := (exec_record_effect (recordOf_recordLen? _ _) hu).sameControl
    rw [State.advance_cur, State.advance_buf, hcur, hbuf, Config.recHdrLen]
    exact ⟨Nat.le_add_right _ _, hfits⟩

/-! ## What a record leaves -/

section
variable {n : U32} {s u : State}

theorem RecordEffect.pending_eq (h : RecordEffect n s u) : u.pending = s.pending := by
  cases h with
  | crc tx => exact State.crcCheck_pending _ _
  | none | slice | package => rfl

theorem RecordEffect.fresh_eq (h : RecordEffect n s u) : u.fresh = s.fresh := by
  cases h with
  | crc tx => exact State.crcCheck_fresh _ _
  | none | slice | package => rfl

end

/-- Settles O14, by the effects a record can have. -/
theorem recordsNeverTouchControl : Obligations.RecordsNeverTouchControl := by
  intro i n s t hn h
  have heff := exec_record_effect hn h
  obtain ⟨hstatus, hcur, herr, hbuf⟩ := heff.sameControl
  exact ⟨hcur, hstatus, herr, heff.mode_eq, hbuf, heff.pending_eq, heff.fresh_eq⟩

/-! ## Starting a PARSE -/

/-- Settles O44, by the instruction's own meaning. -/
theorem parseStarts : Obligations.ParseStarts := fun _ _ _ => rfl

/-- The first step of a `PARSE` tests what the buffer begins with, and then its length (R112 to
R114). -/
theorem step_start (s : State) (bs : List Byte) (mode : CrcMode) :
    step (s.start bs mode) =
      if bs.take 4 = [0x53, 0x4F, 0x46, 0x00] then
        if bs.length < 16 then .next ((s.start bs mode).raise (.truncatedRecord 0))
        else .next (s.start bs mode).acceptHeader
      else .next ((s.start bs mode).raise .formatMismatch) := by
  have hread : (Memory.ofBytes bs).memRead 0 4 = some [0x53, 0x4F, 0x46, 0x00] ↔
      bs.take 4 = [0x53, 0x4F, 0x46, 0x00] := by
    have hfirst := Memory.memRead_zero_iff (Memory.ofBytes_wf bs)
      (p := [0x53, 0x4F, 0x46, 0x00])
    rwa [Memory.bytes_ofBytes] at hfirst
  rw [step_of_header rfl rfl, exec_sof_eq (Memory.ofBytes_wf bs), State.start_buf,
    Memory.len_ofBytes]
  exact if_congr hread rfl rfl

/-- Settles O47: the header is accepted, and its end is the end of the buffer. -/
theorem emptyStreamParses : Obligations.EmptyStreamParses := by
  intro s reserved mode hr
  set bs : List Byte := [0x53, 0x4F, 0x46, 0x00] ++ reserved with hbs
  have hlen : bs.length = 16 := by rw [hbs, List.length_append, hr]; rfl
  have hheader : step (s.start bs mode) = .next (s.start bs mode).acceptHeader := by
    have hmagic : bs.take 4 = [0x53, 0x4F, 0x46, 0x00] := rfl
    rw [step_start, if_pos hmagic, if_neg (by rw [hlen]; decide)]
  have hend : step (s.start bs mode).acceptHeader = .next (s.start bs mode).acceptHeader.complete :=
    step_of_end rfl nofun (hlen.symm.trans (Memory.len_ofBytes bs).symm)
  exact ⟨s.start bs mode, rfl, (run_succ 1 hheader).trans (run_one hend), rfl, rfl⟩

end Sys2Proof.Machine
end

section
/-! PROOFS. The statement of 41_parser_control.md about the whole run. A machine in the middle of a
`PARSE` (`ParseAt`) is followed along the recursion of `refRecords`: at each cursor the bytes that
are left decide both what the machine does and what the contract says. -/

namespace Sys2Proof.Machine

/-! ## What can stand at the cursor -/

/-- The bytes that are left at the cursor, as the record step tells them apart: none (R122), too few
for a tag and a length (R116), a payload cut off (R118), or a record that fits (R119). -/
inductive Remaining : List Byte → Prop
  | none : Remaining []
  | short {bs : List Byte} (hne : bs ≠ []) (hlen : bs.length < 6) : Remaining bs
  | cut (tag : U16) {n : U32} {rest : List Byte} (hlen : rest.length < n.toNat) :
      Remaining (encodeRecordHeader tag n ++ rest)
  | record (tag : U16) {p : List Byte} (post : List Byte) (hp : p.length < 2 ^ 32) :
      Remaining (recBytes tag p ++ post)

/-- Six bytes and more begin with the tag and the length of a record (R72). -/
theorem exists_encodeRecordHeader {bs : List Byte} (h : 6 ≤ bs.length) :
    ∃ tag n rest, bs = encodeRecordHeader tag n ++ rest := by
  match bs, h with
  | t0 :: t1 :: l0 :: l1 :: l2 :: l3 :: rest, _ =>
    refine ⟨le16 t0 t1, le32 l0 l1 l2 l3, rest, ?_⟩
    rw [encodeRecordHeader, bytesLE16_le16, bytesLE32_le32]
    rfl

theorem remaining (bs : List Byte) : Remaining bs := by
  by_cases hne : bs = []
  · rw [hne]
    exact .none
  by_cases hlen : bs.length < 6
  · exact .short hne hlen
  obtain ⟨tag, n, rest, rfl⟩ := exists_encodeRecordHeader (Nat.not_lt.mp hlen)
  by_cases hcut : rest.length < n.toNat
  · exact .cut tag hcut
  have hp : (rest.take n.toNat).length = n.toNat := List.length_take_of_le (Nat.not_lt.mp hcut)
  have hrec : encodeRecordHeader tag n ++ rest =
      recBytes tag (rest.take n.toNat) ++ rest.drop n.toNat := by
    rw [recBytes, recLenBytes, hp, BitVec.ofNat_toNat, BitVec.setWidth_eq, List.append_assoc,
      List.take_append_drop]
  rw [hrec]
  exact .record tag _ (by rw [hp]; exact n.isLt)

/-! ## The contract of the record loop, by what is left -/

section
variable {mode : CrcMode} {bs pre : List Byte} {r : Result} (k : Nat)

theorem refRecords_none (hbs : bs = pre ++ []) :
    refRecords mode bs (k + 1) pre.length r = ⟨.ok, 0, pre.length, r⟩ := by
  rw [refRecords, hbs, List.drop_left]

theorem refRecords_short {rest : List Byte} (hbs : bs = pre ++ rest) (hne : rest ≠ [])
    (hlen : rest.length < 6) :
    refRecords mode bs (k + 1) pre.length r = ⟨.errTrunc, pre.length, pre.length, r⟩ := by
  rw [refRecords, hbs, List.drop_left]
  match rest, hne, hlen with
  | [_], _, _ | [_, _], _, _ | [_, _, _], _, _ | [_, _, _, _], _, _ | [_, _, _, _, _], _, _ => rfl

/-- With a tag and a length there, the payload is there or it is cut off (R117 to R120). -/
theorem refRecords_header {tag : U16} {n : U32} {rest : List Byte}
    (hbs : bs = pre ++ (encodeRecordHeader tag n ++ rest)) :
    refRecords mode bs (k + 1) pre.length r =
      if rest.length < n.toNat then ⟨.errTrunc, pre.length, pre.length, r⟩
      else refRecords mode bs k (pre.length + Config.recHdrLen + n.toNat)
        (refRecord mode bs (recordOf tag n) (pre.length + Config.recHdrLen) (rest.take n.toNat)
          r) := by
  have hdrop : bs.drop pre.length = encodeRecordHeader tag n ++ rest := by
    rw [hbs, List.drop_left]
  rw [refRecords, hdrop]
  simp only [encodeRecordHeader, bytesLE16, bytesLE32, List.cons_append, List.nil_append,
    le16_extract, le32_extract]

theorem refRecords_record {tag : U16} {p post : List Byte} (hp : p.length < 2 ^ 32)
    (hbs : bs = pre ++ (recBytes tag p ++ post)) :
    refRecords mode bs (k + 1) pre.length r =
      refRecords mode bs k (pre ++ recBytes tag p).length
        (refRecord mode bs (recordOf tag (BitVec.ofNat 32 p.length))
          (pre.length + Config.recHdrLen) p r) := by
  have hn : (BitVec.ofNat 32 p.length).toNat = p.length := by
    rw [BitVec.toNat_ofNat, Nat.mod_eq_of_lt hp]
  rw [recBytes, recLenBytes, List.append_assoc] at hbs
  rw [refRecords_header k hbs, hn, if_neg (by simp), List.take_left]
  simp only [recBytes, recLenBytes, List.length_append, encodeRecordHeader_length,
    Config.recHdrLen, Nat.add_assoc]

end

/-- The contract reads the header by the magic and then by the length (R112, R114). -/
theorem refParse_eq (mode : CrcMode) (bs : List Byte) :
    refParse mode bs =
      if bs.take 4 = [0x53, 0x4F, 0x46, 0x00] then
        if bs.length < 16 then ⟨.errTrunc, 0, 0, .empty⟩
        else refRecords mode bs (bs.length + 1) Config.hdrLen .empty
      else ⟨.errFormat, 0, 0, .empty⟩ := by
  rw [refParse, decodeHeader_eq]
  by_cases hmagic : bs.take 4 = [0x53, 0x4F, 0x46, 0x00]
  · by_cases hlen : bs.length < 16
    · rw [if_pos hmagic, if_pos hmagic, if_pos hlen, if_pos hlen]
    · rw [if_pos hmagic, if_pos hmagic, if_neg hlen, if_neg hlen]
  · rw [if_neg hmagic, if_neg hmagic]

/-! ## The meaning of a record against the contract -/

section
variable {n : U32} {s s0 u : State} {p bs : List Byte}

/-- What was read at an address begins with what a shorter read there finds (R52). -/
theorem Memory.memRead_take {m : Memory} (hm : m.wf = true) {a l k : Nat}
    (h : m.memRead a l = some p) (hk : k ≤ l) : m.memRead a k = some (p.take k) := by
  have hl := Memory.memRead_bounds h
  rw [Memory.memRead_of_wf hm, if_pos hl, Option.some_inj] at h
  rw [Memory.memRead_of_wf hm, if_pos (by omega), ← h, List.take_take, Nat.min_eq_left hk]

/-- A CRC16 record does to the result what the contract says (R133, R83). -/
theorem exec_crc16_res (hm : s.buf.wf = true) (hT : TblInv s)
    (hread : s.buf.memRead s.payloadStart n.toNat = some p) (h : exec (.crc16 n) s = .next u) :
    u.res = refRecord s.mode s.buf.bytes (.crc16 n) s.payloadStart p s.res := by
  have hp := Memory.memRead_length hread
  match p with
  | [] | [_] =>
    rw [exec, execCrc16, if_pos (by simp [← hp, Config.crc16Payload])] at h
    cases h
    rfl
  | b0 :: b1 :: rest =>
    have hlong : Config.crc16Payload ≤ n.toNat := by rw [← hp]; exact Nat.le_add_left _ _
    rw [exec, execCrc16, if_neg (Nat.not_lt.mpr hlong), State.payload16,
      Memory.memRead_take hm hread hlong] at h
    cases h
    rw [State.crcCheck_eq (tblInv_setRes hT _)]
    rfl

/-- A PACKAGE record does to the result what the contract says (R135, R83). -/
theorem exec_package_res (hm : s.buf.wf = true)
    (hread : s.buf.memRead s.payloadStart n.toNat = some p) (h : exec (.package n) s = .next u) :
    u.res = refRecord s.mode s.buf.bytes (.package n) s.payloadStart p s.res := by
  have hp := Memory.memRead_length hread
  match p with
  | [] | [_] | [_, _] | [_, _, _] =>
    rw [exec, execPackage, if_pos (by simp [← hp, Config.packagePayload])] at h
    cases h
    rfl
  | b0 :: b1 :: b2 :: b3 :: rest =>
    have hlong : Config.packagePayload ≤ n.toNat := by rw [← hp]; exact Nat.le_add_left _ _
    rw [exec, execPackage, if_neg (Nat.not_lt.mpr hlong), State.payload32,
      Memory.memRead_take hm hread hlong] at h
    cases h
    rfl

/-- Every record does to the result what the contract says (R130 to R137). -/
theorem exec_record_res {i : Instr} (hn : i.recordLen? = some n) (hm : s.buf.wf = true)
    (hT : TblInv s) (hread : s.buf.memRead s.payloadStart n.toNat = some p)
    (h : exec i s = .next u) :
    u.res = refRecord s.mode s.buf.bytes i s.payloadStart p s.res := by
  cases i with
  | buildtool | chiptype | name | bitstream | ramM4k => cases h; rfl
  | skip => cases h; rfl
  | crc16 m => cases hn; exact exec_crc16_res hm hT hread h
  | package m => cases hn; exact exec_package_res hm hread h
  | sof | reset | tblInit | crcSeed | crcByte | crcCompute | parse | crcCheck => cases hn

/-- What a `PARSE` of `bs` that began in `s0` has done outside the parser: the CRC of the whole
buffer stands in the engine once a CRC16 record was met (R101, R127), and else nothing has changed
(R180); the host's operations wait (R10). -/
structure EngineAt (bs : List Byte) (s0 t : State) : Prop where
  pending_eq : t.pending = s0.pending
  engine : if t.res.crcSeen then
      t.acc = crc .lsbFirst (builtTbl .lsbFirst) 0xFFFF bs ∧
        t.tbl = builtTbl .lsbFirst ∧ t.tblValid = true
    else t.acc = s0.acc ∧ t.tbl = s0.tbl ∧ t.tblValid = s0.tblValid

/-- Only the check writes the engine, and it sets `CRC_SEEN` (R101, R133, R180). -/
theorem RecordEffect.engineAt (h : RecordEffect n s u) (hT : TblInv s) (hbs : s.buf.bytes = bs)
    (he : EngineAt bs s0 s) : EngineAt bs s0 u where
  pending_eq := h.pending_eq.trans he.pending_eq
  engine := by
    cases h with
    | crc tx =>
      rw [State.crcCheck_eq (tblInv_setRes hT _)]
      exact hbs ▸ ⟨rfl, rfl, rfl⟩
    | slice k => cases k <;> exact he.engine
    | none | package => exact he.engine

end

/-! ## Runs -/

/-- `k` steps lead from `s` to `t`, and the machine is busy before each of them. -/
def BusyRun (k : Nat) (s t : State) : Prop :=
  Host.Core.run core k s = .next t ∧
    ∀ j < k, ∃ u, Host.Core.run core j s = .next u ∧ u.status = .busy

theorem BusyRun.refl (s : State) : BusyRun 0 s s := ⟨rfl, nofun⟩

theorem BusyRun.cons {k : Nat} {s u t : State} (hb : s.status = .busy) (hs : step s = .next u)
    (h : BusyRun k u t) : BusyRun (k + 1) s t := by
  obtain ⟨hrun, hbusy⟩ := h
  refine ⟨(run_succ k hs).trans hrun, ?_⟩
  rintro (_ | j) hj
  · exact ⟨s, rfl, hb⟩
  · obtain ⟨v, hv, hvb⟩ := hbusy j (Nat.lt_of_succ_lt_succ hj)
    exact ⟨v, (run_succ j hs).trans hv, hvb⟩

/-- `t` is where a `PARSE` of `bs` in `mode` that began in `s0` may end, with the registers `e`. -/
structure ParseEndsAt (bs : List Byte) (mode : CrcMode) (s0 : State) (e : ParseEnd) (t : State) :
    Prop where
  parseEnd_eq : t.parseEnd = e
  terminal : t.status.terminal = true
  mode_eq : t.mode = mode
  buf_eq : t.buf = .ofBytes bs
  engine : EngineAt bs s0 t

/-- From `s` the run reaches that end within `bound` steps (R123). -/
def RunsToEnd (bs : List Byte) (mode : CrcMode) (s0 : State) (bound : Nat) (e : ParseEnd)
    (s : State) : Prop :=
  ∃ k t, k ≤ bound ∧ BusyRun k s t ∧ ParseEndsAt bs mode s0 e t

section
variable {bs : List Byte} {mode : CrcMode} {s0 s t : State} {e : ParseEnd} {b : Nat}

theorem RunsToEnd.cons {b' : Nat} (hb : s.status = .busy) (hs : step s = .next t)
    (h : RunsToEnd bs mode s0 b e t) (hbound : b + 1 ≤ b') : RunsToEnd bs mode s0 b' e s := by
  obtain ⟨k, v, hk, hrun, hend⟩ := h
  exact ⟨k + 1, v, by omega, hrun.cons hb hs, hend⟩

theorem ParseEndsAt.runsToEnd (h : ParseEndsAt bs mode s0 e t) (hb : s.status = .busy)
    (hs : step s = .next t) : RunsToEnd bs mode s0 (b + 1) e s :=
  ⟨1, t, Nat.le_add_left _ _, (BusyRun.refl t).cons hb hs, h⟩

/-- A run ends OK at the end of the buffer (R122). -/
theorem ParseAt.endsAt_complete {cur : Nat} (h : ParseAt bs mode cur s) (h0 : cur ≠ 0)
    (he : EngineAt bs s0 s) : ParseEndsAt bs mode s0 ⟨.ok, 0, cur, s.res⟩ s.complete where
  parseEnd_eq := by
    obtain ⟨herr, -⟩ := h.inv.cur_past_header h.busy (h.cur_eq ▸ h0)
    simp only [State.parseEnd, State.complete_status, State.complete_errOff, State.complete_cur,
      State.complete_res, herr, h.cur_eq]
  terminal := rfl
  mode_eq := h.mode_eq
  buf_eq := h.buf_eq
  engine := ⟨he.pending_eq, he.engine⟩

/-- A run that is cut short ends at its cursor (R153). -/
theorem ParseAt.endsAt_truncated {cur : Nat} (h : ParseAt bs mode cur s)
    (he : EngineAt bs s0 s) :
    ParseEndsAt bs mode s0 ⟨.errTrunc, cur, cur, s.res⟩ (s.raise (.truncatedRecord cur)) where
  parseEnd_eq := by
    simp only [State.parseEnd, State.raiseTruncated_status, State.raiseTruncated_errOff,
      State.raiseTruncated_cur, State.raiseTruncated_res, h.cur_eq]
  terminal := rfl
  mode_eq := h.mode_eq
  buf_eq := h.buf_eq
  engine := ⟨he.pending_eq, he.engine⟩

/-! ## The record loop -/

/-- Where the fetch raises, the run ends (R116, R118). -/
theorem ParseAt.runsToEnd_truncated {pre rest : List Byte} (h : ParseAt bs mode pre.length s)
    (he : EngineAt bs s0 s) (hpre : pre ≠ []) (hbs : bs = pre ++ rest) (hrest : rest ≠ [])
    (hr : fetchRecord s = .raised (.truncatedRecord s.cur)) :
    RunsToEnd bs mode s0 (b + 1) ⟨.errTrunc, pre.length, pre.length, s.res⟩ s := by
  have h0 : s.cur ≠ 0 := by rw [h.cur_eq]; exact mt List.length_eq_zero_iff.mp hpre
  have hend : s.cur ≠ s.buf.len := by
    rw [h.cur_eq, h.buf_eq, Memory.len_ofBytes, hbs, List.length_append]
    exact Nat.ne_of_lt (Nat.lt_add_of_pos_right (List.length_pos_iff.mpr hrest))
  have hstep := step_of_fetchRecord_raised h.busy h0 hend hr
  rw [h.cur_eq] at hstep
  exact (h.endsAt_truncated he).runsToEnd h.busy hstep

/-- A record of the stream does what the contract says of it (R119, R120, R127). -/
theorem ParseAt.step_record_ref {pre p post : List Byte} {tag : U16}
    (h : ParseAt bs mode pre.length s) (he : EngineAt bs s0 s) (hpre : pre ≠ [])
    (hp : p.length < 2 ^ 32) (hbs : bs = pre ++ recBytes tag p ++ post) :
    ∃ t, step s = .next t ∧ ParseAt bs mode (pre ++ recBytes tag p).length t ∧
      EngineAt bs s0 t ∧
      t.res = refRecord mode bs (recordOf tag (BitVec.ofNat 32 p.length))
        (pre.length + Config.recHdrLen) p s.res := by
  obtain ⟨u, hexec, hstep, hat⟩ := h.step_record hpre hp hbs
  have hbytes : s.buf.bytes = bs := by rw [h.buf_eq, Memory.bytes_ofBytes]
  have hn := recordOf_recordLen? tag (BitVec.ofNat 32 p.length)
  have hread : s.buf.memRead s.payloadStart (BitVec.ofNat 32 p.length).toNat = some p := by
    have hmiddle := Memory.memRead_middle
      (pre ++ encodeRecordHeader tag (BitVec.ofNat 32 p.length)) p post
    rw [List.length_append, encodeRecordHeader_length] at hmiddle
    rw [BitVec.toNat_ofNat, Nat.mod_eq_of_lt hp, h.buf_eq, State.payloadStart, h.cur_eq, hbs,
      recBytes, recLenBytes, ← List.append_assoc, List.append_assoc]
    exact hmiddle
  have hres := exec_record_res hn h.inv.memory h.inv.table hread hexec
  rw [h.mode_eq, hbytes, State.payloadStart, h.cur_eq] at hres
  have heng := (exec_record_effect hn hexec).engineAt h.inv.table hbytes he
  exact ⟨_, hstep, hat, ⟨heng.pending_eq, heng.engine⟩, hres⟩

/-- From any record boundary the run ends as the contract says, with one step for each record that
is left and one to end (R115 to R123). -/
theorem ParseAt.runsToEnd (k : Nat) {pre rest : List Byte} (hpre : pre ≠ [])
    (hbs : bs = pre ++ rest) (hk : rest.length < 6 * k) (h : ParseAt bs mode pre.length s)
    (he : EngineAt bs s0 s) :
    RunsToEnd bs mode s0 (rest.length / 6 + 1) (refRecords mode bs k pre.length s.res) s := by
  induction k generalizing pre rest s with
  | zero => exact absurd hk (Nat.not_lt_zero _)
  | succ k ih =>
    cases remaining rest with
    | none =>
      rw [refRecords_none k hbs]
      rw [List.append_nil] at hbs
      subst hbs
      exact (h.endsAt_complete (mt List.length_eq_zero_iff.mp hpre) he).runsToEnd h.busy
        (h.step_complete hpre)
    | short hne hlen =>
      rw [refRecords_short k hbs hne hlen]
      refine h.runsToEnd_truncated he hpre hbs hne (fetchRecord_of_short_header ?_)
      rw [h.buf_eq, h.cur_eq, Memory.len_ofBytes, hbs, List.length_append]
      exact Nat.add_lt_add_left hlen _
    | @cut tag n rest hlen =>
      rw [refRecords_header k hbs, if_pos hlen]
      refine h.runsToEnd_truncated he hpre hbs (List.cons_ne_nil _ _)
        (fetchRecord_of_short_payload (h := encodeRecordHeader tag n) ?_ ?_
          (recordOf_recordLen? tag n) ?_)
      · rw [h.buf_eq, h.cur_eq, hbs]
        exact Memory.memRead_middle pre (encodeRecordHeader tag n) rest
      · simpa using decode_encodeRecordHeader tag n []
      · rw [h.buf_eq, h.cur_eq, Memory.len_ofBytes, hbs]
        simp only [List.length_append, encodeRecordHeader_length, Config.recHdrLen]
        omega
    | @record tag p post hp =>
      rw [refRecords_record k hp hbs]
      rw [← List.append_assoc] at hbs
      obtain ⟨t, hstep, hat, heng, hres⟩ := h.step_record_ref he hpre hp hbs
      have hlen : (recBytes tag p ++ post).length = 6 + p.length + post.length := by
        rw [recBytes, recLenBytes, List.length_append, List.length_append,
          encodeRecordHeader_length]
      rw [← hres]
      exact (ih (List.append_ne_nil_of_left_ne_nil hpre _) hbs (by omega) hat heng).cons h.busy
        hstep (by omega)

/-! ## The whole PARSE -/

/-- An accepted header leads to the first record (R113). -/
theorem ParseAt.acceptHeader (h : ParseAt bs mode 0 s) (hs : step s = .next s.acceptHeader) :
    ParseAt bs mode Config.hdrLen s.acceptHeader :=
  ⟨everyStepKeepsInvariant s _ h.inv hs, h.busy, h.mode_eq, h.buf_eq, rfl⟩

/-- A run that the header ends (R152). -/
theorem endsAt_formatMismatch (he : EngineAt bs s0 (s.start bs mode)) :
    ParseEndsAt bs mode s0 ⟨.errFormat, 0, 0, .empty⟩
      ((s.start bs mode).raise .formatMismatch) where
  parseEnd_eq := rfl
  terminal := rfl
  mode_eq := rfl
  buf_eq := rfl
  engine := ⟨he.pending_eq, he.engine⟩

/-- From its start the run ends as the contract says (R110, R123, R127). -/
theorem start_runsToEnd (hT : TblInv s) (bs : List Byte) (mode : CrcMode) :
    RunsToEnd bs mode s ((bs.length - 16) / 6 + 2) (refParse mode bs) (s.start bs mode) := by
  have hat := parseAt_start hT bs mode
  have heng : EngineAt bs s (s.start bs mode) := ⟨rfl, rfl, rfl, rfl⟩
  have hstep := step_start s bs mode
  rw [refParse_eq]
  by_cases hmagic : bs.take 4 = [0x53, 0x4F, 0x46, 0x00]
  · rw [if_pos hmagic] at hstep ⊢
    by_cases hlen : bs.length < 16
    · rw [if_pos hlen] at hstep ⊢
      exact (hat.endsAt_truncated heng).runsToEnd rfl hstep
    · rw [if_neg hlen] at hstep ⊢
      have hpre : (bs.take 16).length = Config.hdrLen :=
        List.length_take_of_le (Nat.not_lt.mp hlen)
      have hrest : (bs.drop 16).length = bs.length - 16 := List.length_drop
      have hrun := (hpre ▸ hat.acceptHeader hstep).runsToEnd (bs.length + 1)
        (List.ne_nil_of_length_pos (by rw [hpre]; decide))
        (List.take_append_drop 16 bs).symm (by omega) (he := ⟨heng.pending_eq, heng.engine⟩)
      rw [hpre, hrest] at hrun
      exact hrun.cons rfl hstep le_rfl
  · rw [if_neg hmagic] at hstep ⊢
    exact (endsAt_formatMismatch heng).runsToEnd rfl hstep

end

/-- Settles O45, by the run from the start. -/
theorem parseRunsToItsEnd : Obligations.ParseRunsToItsEnd := by
  intro s bs mode hT
  obtain ⟨k, t, hk, ⟨hrun, hbusy⟩, hend⟩ := start_runsToEnd hT bs mode
  exact ⟨s.start bs mode, k, t, rfl, hk, hrun, hend.parseEnd_eq, hend.terminal, hend.mode_eq,
    hend.buf_eq, hend.engine.pending_eq, hend.engine.engine, hbusy⟩

end Sys2Proof.Machine
end

section
/-! PROOFS. The statements of 42_records.md. What a record writes into the result is said once, as
data: its tag decides which fields, and inputs that no record changes decide with what. What two
records leave, in whatever order, follows from that; the round trip follows one slice register along
a run. -/

namespace Sys2Proof.Machine

/-! ## The meaning of a single record -/

/-- Settles O8: each slice record is its own write of the payload's slice. -/
theorem sliceRecordsRecordTheirPayload : Obligations.SliceRecordsRecordTheirPayload :=
  fun _ _ => ⟨rfl, rfl, rfl, rfl, rfl⟩

/-- Settles O12, by the record's own meaning. -/
theorem skipHasNoEffect : Obligations.SkipHasNoEffect := fun _ _ _ => rfl

section
variable {n : U32} {s : State}

/-- Too short a CRC16 record has no effect (R83, R133). -/
theorem exec_crc16_short (hn : n.toNat < 2) : exec (.crc16 n) s = .next s := if_pos hn

/-- A CRC16 record with its payload records the transmitted value and checks the buffer (R133). -/
theorem exec_crc16_long {tx : U16} (hn : 2 ≤ n.toNat) (htx : s.payload16 = some tx) :
    exec (.crc16 n) s =
      .next ((s.setRes { s.res with crcTx := tx, crcSeen := true }).crcCheck tx) := by
  rw [exec, execCrc16, Config.crc16Payload, if_neg (Nat.not_lt.mpr hn), htx]

/-- Too short a PACKAGE record has no effect (R83, R135). -/
theorem exec_package_short (hn : n.toNat < 4) : exec (.package n) s = .next s := if_pos hn

/-- A PACKAGE record with its payload records the identifier (R135). -/
theorem exec_package_long {id : U32} (hn : 4 ≤ n.toNat) (hid : s.payload32 = some id) :
    exec (.package n) s = .next (s.setRes { s.res with pkgId := id, pkgSeen := true }) := by
  rw [exec, execPackage, Config.packagePayload, if_neg (Nat.not_lt.mpr hn), hid]

/-- A CRC16 record that completes is too short or has its payload (R52, R133). -/
theorem exec_crc16_cases {u : State} (h : exec (.crc16 n) s = .next u) :
    n.toNat < 2 ∨ 2 ≤ n.toNat ∧ ∃ tx, s.payload16 = some tx := by
  refine (Nat.lt_or_ge n.toNat 2).imp_right fun hn => ⟨hn, ?_⟩
  cases htx : s.payload16 with
  | some tx => exact ⟨tx, rfl⟩
  | none =>
    rw [exec, execCrc16, Config.crc16Payload, if_neg (Nat.not_lt.mpr hn), htx] at h
    cases h

/-- A PACKAGE record that completes is too short or has its payload (R52, R135). -/
theorem exec_package_cases {u : State} (h : exec (.package n) s = .next u) :
    n.toNat < 4 ∨ 4 ≤ n.toNat ∧ ∃ id, s.payload32 = some id := by
  refine (Nat.lt_or_ge n.toNat 4).imp_right fun hn => ⟨hn, ?_⟩
  cases hid : s.payload32 with
  | some id => exact ⟨id, rfl⟩
  | none =>
    rw [exec, execPackage, Config.packagePayload, if_neg (Nat.not_lt.mpr hn), hid] at h
    cases h

end

/-- Settles O9: inside a canonical buffer the four bytes of the identifier are there. -/
theorem packageDecodesIdentifier : Obligations.PackageDecodesIdentifier := by
  intro s n hm hfits
  refine ⟨fun hn => ?_, exec_package_short⟩
  obtain ⟨b0, b1, b2, b3, hread, hid⟩ := State.payload32_of_wf hm (by omega)
  exact ⟨b0, b1, b2, b3, hread, exec_package_long hn hid⟩

/-- Settles O10: inside a canonical buffer the two bytes of the transmitted value are there, and the
check leaves what it leaves of the whole buffer. -/
theorem crc16ChecksTheWholeBuffer : Obligations.Crc16ChecksTheWholeBuffer := by
  intro s n hm hT hfits
  refine ⟨fun hn => ?_, exec_crc16_short⟩
  obtain ⟨b0, b1, hread, htx⟩ := State.payload16_of_wf hm (by omega)
  refine ⟨b0, b1, s.buf.bytes, hread, Memory.memRead_whole hm, ?_⟩
  rw [exec_crc16_long hn htx, State.crcCheck_eq (tblInv_setRes hT _), xor_ffff_eq_not,
    ← crcVerdict_eq_decide]
  rfl

/-! ## What a record writes into the result -/

/-- The tag of the records that write a slice register (R76, R130 to R136). -/
def SliceReg.tag : SliceReg → U16
  | .bs => Config.tagBitstream
  | .ram => Config.tagRamM4k
  | .bt => Config.tagBuildtool
  | .ct => Config.tagChiptype
  | .nm => Config.tagName

/-- One write into the result registers: the fields of one tag, or none. -/
inductive ResultWrite where
  | none
  | slice (k : SliceReg) (x : Slice)
  | package (id : U32)
  | crc (tx computed : U16) (valid : Bool)

/-- The tag whose fields are written. -/
def ResultWrite.tag? : ResultWrite → Option U16
  | .none => Option.none
  | .slice k _ => some k.tag
  | .package _ => some Config.tagPackage
  | .crc _ _ _ => some Config.tagCrc16

/-- The result after a write; every other field stays. -/
def Result.write (r : Result) : ResultWrite → Result
  | .none => r
  | .slice k x => r.setSlice k x
  | .package id => { r with pkgId := id, pkgSeen := true }
  | .crc tx computed valid =>
    { r with crcTx := tx, crcSeen := true, crcComputed := computed, crcValid := valid }

theorem SliceReg.tag_injective : Function.Injective SliceReg.tag := by
  intro k k' h
  cases k <;> cases k' <;> try rfl
  all_goals exact absurd h (by decide)

theorem SliceReg.tag_ne_crc16 (k : SliceReg) : k.tag ≠ Config.tagCrc16 := by
  cases k <;> decide

theorem SliceReg.tag_ne_package (k : SliceReg) : k.tag ≠ Config.tagPackage := by
  cases k <;> decide

theorem Result.setSlice_comm {k k' : SliceReg} (h : k ≠ k') (r : Result) (x y : Slice) :
    (r.setSlice k x).setSlice k' y = (r.setSlice k' y).setSlice k x := by
  cases k <;> cases k' <;> try rfl
  all_goals exact absurd rfl h

theorem Result.setSlice_setSlice (k : SliceReg) (r : Result) (x y : Slice) :
    (r.setSlice k x).setSlice k y = r.setSlice k y := by
  cases k <;> rfl

/-- Writes of different tags commute. -/
theorem Result.write_comm {w w' : ResultWrite} (h : ∀ t, w.tag? = some t → w'.tag? ≠ some t)
    (r : Result) : (r.write w).write w' = (r.write w').write w := by
  cases w with
  | none => rfl
  | slice k x =>
    cases w' with
    | slice k' y => exact Result.setSlice_comm (by rintro rfl; exact h _ rfl rfl) r x y
    | none | package | crc => cases k <;> rfl
  | package id =>
    cases w' with
    | package id' => exact absurd rfl (h _ rfl)
    | slice k y => cases k <;> rfl
    | none | crc => rfl
  | crc tx c v =>
    cases w' with
    | crc tx' c' v' => exact absurd rfl (h _ rfl)
    | slice k y => cases k <;> rfl
    | none | package => rfl

/-- A write overwrites an earlier one of its tag. -/
theorem Result.write_write {w w' : ResultWrite} (h : ∀ t, w.tag? = some t → w'.tag? = some t)
    (r : Result) : (r.write w).write w' = r.write w' := by
  cases w with
  | none => rfl
  | slice k x =>
    have hk := h _ rfl
    cases w' with
    | slice k' y =>
      obtain rfl : k' = k := SliceReg.tag_injective (Option.some_inj.mp hk)
      exact Result.setSlice_setSlice k' r x y
    | none => cases hk
    | package => exact absurd (Option.some_inj.mp hk).symm k.tag_ne_package
    | crc => exact absurd (Option.some_inj.mp hk).symm k.tag_ne_crc16
  | package id =>
    have hpkg := h _ rfl
    cases w' with
    | package id' => rfl
    | slice k y => exact absurd (Option.some_inj.mp hpkg) k.tag_ne_package
    | none => cases hpkg
    | crc => exact absurd (Option.some_inj.mp hpkg) (by decide)
  | crc tx c v =>
    have hcrc := h _ rfl
    cases w' with
    | crc tx' c' v' => rfl
    | slice k y => exact absurd (Option.some_inj.mp hcrc) k.tag_ne_crc16
    | none => cases hcrc
    | package => exact absurd (Option.some_inj.mp hcrc) (by decide)

/-- A write of another tag leaves the BITSTREAM slice. -/
theorem Result.write_bs {w : ResultWrite} (h : w.tag? ≠ some Config.tagBitstream) (r : Result) :
    (r.write w).bs = r.bs := by
  cases w with
  | slice k x =>
    cases k with
    | bs => exact absurd rfl h
    | ram | bt | ct | nm => rfl
  | none | package | crc => rfl

/-! ## Which write a record is -/

/-- The CRC that a check in `s` computes and compares (R101). -/
def State.checkedCrc (s : State) : U16 :=
  ~~~crc Config.crcVariant s.ensureTbl.tbl Config.seed s.buf.bytes

/-- The write that a record makes in `s` where it completes (R130 to R137, R83). -/
def recordWrite (i : Instr) (s : State) : ResultWrite :=
  match i with
  | .buildtool n => .slice .bt (s.payloadSlice n)
  | .chiptype n => .slice .ct (s.payloadSlice n)
  | .name n => .slice .nm (s.payloadSlice n)
  | .bitstream n => .slice .bs (s.payloadSlice n)
  | .ramM4k n => .slice .ram (s.payloadSlice n)
  | .crc16 n =>
    if n.toNat < 2 then .none
    else s.payload16.elim .none fun tx => .crc tx s.checkedCrc (crcVerdict s.mode s.checkedCrc tx)
  | .package n => if n.toNat < 4 then .none else s.payload32.elim .none .package
  | .skip _ _ | .sof | .reset | .tblInit | .crcSeed _ | .crcByte _ | .crcCompute _ _ | .parse _ _
  | .crcCheck _ => .none

section
variable {i : Instr} {n : U32} {s u : State}

/-- The table that the engine uses in `s` (R94). -/
theorem State.ensureTbl_tbl_eq (s : State) :
    s.ensureTbl.tbl = if s.tblValid then s.tbl else builtTbl Config.crcVariant :=
  apply_ite State.tbl (s.tblValid = true) s s.buildTbl

theorem State.setRes_ensureTbl_tbl (r : Result) (s : State) :
    (s.setRes r).ensureTbl.tbl = s.ensureTbl.tbl := by
  rw [State.ensureTbl_tbl_eq, State.ensureTbl_tbl_eq]
  rfl

/-- A record that completes makes its write, and no other. -/
theorem exec_record_write (hn : i.recordLen? = some n) (h : exec i s = .next u) :
    u.res = s.res.write (recordWrite i s) := by
  cases i with
  | buildtool | chiptype | name | bitstream | ramM4k | skip => cases h; rfl
  | crc16 m =>
    rcases exec_crc16_cases h with hshort | ⟨hlong, tx, htx⟩
    · rw [exec_crc16_short hshort] at h
      cases h
      rw [recordWrite, if_pos hshort, Result.write]
    · rw [exec_crc16_long hlong htx] at h
      cases h
      rw [recordWrite, if_neg (Nat.not_lt.mpr hlong), htx, State.crcCheck_res,
        State.setRes_ensureTbl_tbl]
      rfl
  | package m =>
    rcases exec_package_cases h with hshort | ⟨hlong, id, hid⟩
    · rw [exec_package_short hshort] at h
      cases h
      rw [recordWrite, if_pos hshort, Result.write]
    · rw [exec_package_long hlong hid] at h
      cases h
      rw [recordWrite, if_neg (Nat.not_lt.mpr hlong), hid]
      rfl
  | sof | reset | tblInit | crcSeed | crcByte | crcCompute | parse | crcCheck => cases hn

/-- A record writes no fields but those of its tag (R76), which is a recognised one (R81). -/
theorem tag?_of_recordWrite {t : U16} (h : (recordWrite i s).tag? = some t) :
    i.tag? = some t ∧ t ∈ Config.recognisedTags := by
  cases i with
  | buildtool | chiptype | name | bitstream | ramM4k => cases h; exact ⟨rfl, by decide⟩
  | crc16 m =>
    rw [recordWrite] at h
    split at h
    · cases h
    · cases hp : s.payload16 <;> rw [hp] at h <;> cases h
      exact ⟨rfl, by decide⟩
  | package m =>
    rw [recordWrite] at h
    split at h
    · cases h
    · cases hp : s.payload32 <;> rw [hp] at h <;> cases h
      exact ⟨rfl, by decide⟩
  | skip | sof | reset | tblInit | crcSeed | crcByte | crcCompute | parse | crcCheck => cases h

/-- A record of a recognised tag that completes, and is long enough for an effect, writes the fields
of its tag (R83). -/
theorem recordWrite_tag? {t : U16} (hn : i.recordLen? = some n) (hw : i.wellFormed = true)
    (ht : i.tag? = some t) (hrec : t ∈ Config.recognisedTags) (hcrc : i.tag? = some 8 → 2 ≤ n.toNat)
    (hpkg : i.tag? = some 18 → 4 ≤ n.toNat) (h : exec i s = .next u) :
    (recordWrite i s).tag? = some t := by
  cases i with
  | buildtool | chiptype | name | bitstream | ramM4k => exact ht
  | skip tag m => cases ht; exact absurd hrec (wellFormed_skip_iff.mp hw)
  | crc16 m =>
    cases hn
    obtain ⟨hlong, tx, htx⟩ :=
      (exec_crc16_cases h).resolve_left (Nat.not_lt.mpr (hcrc rfl))
    rw [recordWrite, if_neg (Nat.not_lt.mpr hlong), htx]
    exact ht
  | package m =>
    cases hn
    obtain ⟨hlong, id, hid⟩ :=
      (exec_package_cases h).resolve_left (Nat.not_lt.mpr (hpkg rfl))
    rw [recordWrite, if_neg (Nat.not_lt.mpr hlong), hid]
    exact ht
  | sof | reset | tblInit | crcSeed | crcByte | crcCompute | parse | crcCheck => cases hn

end

/-! ## Two records, one after the other -/

/-- Agreement on what a record reads: the cursor, the buffer, the mode, and the table that the
engine uses (R94); results and accumulators may differ. -/
structure SameInputs (s s' : State) : Prop where
  cur : s'.cur = s.cur
  buf : s'.buf = s.buf
  mode : s'.mode = s.mode
  table : s'.ensureTbl.tbl = s.ensureTbl.tbl

section
variable {i j : Instr} {n m : U32} {p q : Nat} {s s' s1 s2 : State}

/-- No record changes what a record reads (R101, R119). -/
theorem RecordEffect.sameInputs {u : State} (h : RecordEffect n s u) : SameInputs s u where
  cur := h.sameControl.cur
  buf := h.sameControl.buf
  mode := h.mode_eq
  table := by
    cases h with
    | none => rfl
    | slice | package => exact State.setRes_ensureTbl_tbl _ s
    | crc tx =>
      rw [State.ensureTbl_tbl_eq, State.crcCheck_tblValid, if_pos rfl, State.crcCheck_tbl,
        State.setRes_ensureTbl_tbl]

theorem SameInputs.moveTo (h : SameInputs s s') (q : Nat) :
    SameInputs { s with cur := q } { s' with cur := q } where
  cur := rfl
  buf := h.buf
  mode := h.mode
  table := by simpa only [State.ensureTbl_tbl_eq] using h.table

/-- What a record writes is decided by these inputs. -/
theorem SameInputs.recordWrite_eq (h : SameInputs s s') (i : Instr) :
    recordWrite i s' = recordWrite i s := by
  cases i with
  | crc16 n =>
    simp only [recordWrite, State.checkedCrc, State.payload16, State.payloadStart, h.cur, h.buf,
      h.mode, h.table]
  | package n => simp only [recordWrite, State.payload32, State.payloadStart, h.cur, h.buf]
  | buildtool | chiptype | name | bitstream | ramM4k =>
    simp only [recordWrite, State.payloadSlice, State.payloadStart, h.cur]
  | skip | sof | reset | tblInit | crcSeed | crcByte | crcCompute | parse | crcCheck => rfl

/-- Two records leave their two writes, each as it would be made alone. -/
theorem exec_two_records (hi : i.recordLen? = some n) (hj : j.recordLen? = some m)
    (h1 : exec i { s with cur := p } = .next s1) (h2 : exec j { s1 with cur := q } = .next s2) :
    s2.res = (s.res.write (recordWrite i { s with cur := p })).write
      (recordWrite j { s with cur := q }) := by
  have hsame : SameInputs { s with cur := q } { s1 with cur := q } :=
    (exec_record_effect hi h1).sameInputs.moveTo q
  rw [exec_record_write hj h2, hsame.recordWrite_eq, exec_record_write hi h1]

end

/-- Settles O15: writes of different tags commute (R139). -/
theorem recordsOfDifferentTagsCommute : Obligations.RecordsOfDifferentTagsCommute := by
  intro i j n m p q s s1 s2 t1 t2 hi hj htag h1 h2 h3 h4
  rw [exec_two_records hi hj h1 h2, exec_two_records hj hi h3 h4]
  refine Result.write_comm (fun t hti htj => htag ?_) s.res
  rw [(tag?_of_recordWrite hti).1, (tag?_of_recordWrite htj).1]

/-- Settles O16: a first record that writes anything writes the tag of the last one, which then
overwrites it (R138). -/
theorem lastRecordOfATagWins : Obligations.LastRecordOfATagWins := by
  intro i j n m p q s s1 s2 t hi hj _ hwj htag hcrc hpkg h1 h2 h3
  rw [exec_two_records hi hj h1 h2, exec_record_write hj h3]
  refine Result.write_write (fun tag hti => ?_) s.res
  obtain ⟨hitag, hrec⟩ := tag?_of_recordWrite hti
  exact recordWrite_tag? hj hwj (htag.symm.trans hitag) hrec hcrc hpkg h3

/-! ## The round trip of a slice -/

/-- A record with a tag other than BITSTREAM's leaves the BITSTREAM slice (R134). -/
theorem exec_recordOf_bs {tag : U16} {n : U32} {s u : State} (htag : tag ≠ 17)
    (h : exec (recordOf tag n) s = .next u) : u.res.bs = s.res.bs := by
  rw [exec_record_write (recordOf_recordLen? tag n) h]
  refine Result.write_bs (fun hw => htag ?_) s.res
  exact Option.some_inj.mp ((recordOf_tag? tag n).symm.trans (tag?_of_recordWrite hw).1)

/-- A machine in the middle of a `PARSE` of `bs`, with the cursor at `cur`. Unlike `ParseAt` it asks
no invariant: the table of the machine may hold anything. -/
structure CursorAt (bs : List Byte) (cur : Nat) (s : State) : Prop where
  busy : s.status = .busy
  buf_eq : s.buf = .ofBytes bs
  cur_eq : s.cur = cur

section
variable {bs pre p post : List Byte} {tag : U16} {s : State}

/-- Where a record was laid out, its tag and length are read, and it fits (R72, R118). -/
theorem CursorAt.record_fits (h : CursorAt (pre ++ recBytes tag p ++ post) pre.length s)
    (hp : p.length < 2 ^ 32) :
    s.buf.memRead s.cur Config.recHdrLen =
        some (encodeRecordHeader tag (BitVec.ofNat 32 p.length)) ∧
      s.cur + Config.recHdrLen + (BitVec.ofNat 32 p.length).toNat ≤ s.buf.len := by
  rw [h.buf_eq, h.cur_eq, recBytes, recLenBytes, List.append_assoc, List.append_assoc]
  refine ⟨Memory.memRead_middle pre (encodeRecordHeader tag _) (p ++ post), ?_⟩
  simp only [Memory.len_ofBytes, List.length_append, encodeRecordHeader_length, Config.recHdrLen,
    BitVec.toNat_ofNat, Nat.mod_eq_of_lt hp]
  omega

/-- That record is executed, and the cursor goes to its end (R119, R120). -/
theorem CursorAt.step_record (h : CursorAt (pre ++ recBytes tag p ++ post) pre.length s)
    (hpre : pre ≠ []) (hp : p.length < 2 ^ 32) :
    ∃ u, exec (recordOf tag (BitVec.ofNat 32 p.length)) s = .next u ∧
      step s = .next (u.advance (BitVec.ofNat 32 p.length)) ∧
      CursorAt (pre ++ recBytes tag p ++ post) (pre ++ recBytes tag p).length
        (u.advance (BitVec.ofNat 32 p.length)) := by
  obtain ⟨hread, hfits⟩ := h.record_fits hp
  have hn := recordOf_recordLen? tag (BitVec.ofNat 32 p.length)
  have h0 : s.cur ≠ 0 := by rw [h.cur_eq]; exact mt List.length_eq_zero_iff.mp hpre
  have hm : s.buf.wf = true := by rw [h.buf_eq]; exact Memory.ofBytes_wf _
  have hdec := decode_encodeRecordHeader tag (BitVec.ofNat 32 p.length) []
  rw [List.append_nil] at hdec
  obtain ⟨u, hu⟩ := exec_record_next hn hm hfits
  obtain ⟨hstatus, hcur, -, hbuf⟩ := (exec_record_effect hn hu).sameControl
  refine ⟨u, hu, ?_, hstatus.trans h.busy, hbuf.trans h.buf_eq, ?_⟩
  · rw [step_of_decoded_record h.busy h0 hread hdec hn hfits, hu, retireOutcome,
      State.retire_of_some _ _ u hn]
  · simp only [State.advance_cur, hcur, h.cur_eq, recBytes, recLenBytes, List.length_append,
      encodeRecordHeader_length, Config.recHdrLen, BitVec.toNat_ofNat, Nat.mod_eq_of_lt hp,
      Nat.add_assoc]

/-- Records of other tags are run through, one step each, and leave the BITSTREAM slice (R134). -/
theorem CursorAt.run_records {records : List (U16 × List Byte)} (hpre : pre ≠ [])
    (hrec : ∀ r ∈ records, r.1 ≠ 17 ∧ r.2.length < 2 ^ 32)
    (hbs : bs = pre ++ recordsBytes records ++ post) (h : CursorAt bs pre.length s) :
    ∃ t, Host.Core.run core records.length s = .next t ∧
      CursorAt bs (pre ++ recordsBytes records).length t ∧ t.res.bs = s.res.bs := by
  induction records generalizing pre s with
  | nil => exact ⟨s, rfl, by simpa [recordsBytes] using h, rfl⟩
  | cons r records ih =>
    obtain ⟨⟨htag, hlen⟩, hrest⟩ := List.forall_mem_cons.mp hrec
    rw [recordsBytes_cons, ← List.append_assoc] at hbs ⊢
    have hbs' : bs = pre ++ recBytes r.1 r.2 ++ (recordsBytes records ++ post) := by
      rw [hbs, List.append_assoc]
    obtain ⟨u, hu, hstep, hat⟩ := (hbs' ▸ h).step_record hpre hlen
    obtain ⟨t, hrun, ht, hres⟩ :=
      ih (List.append_ne_nil_of_left_ne_nil hpre _) hrest hbs (hbs' ▸ hat)
    have hkeep : u.res.bs = s.res.bs := exec_recordOf_bs htag hu
    exact ⟨t, (run_succ _ hstep).trans hrun, ht, hres.trans hkeep⟩

/-- At the end of the stream the run is OK (R122). -/
theorem CursorAt.step_complete (h : CursorAt bs bs.length s) (hbs : bs ≠ []) :
    step s = .next s.complete :=
  step_of_end h.busy (by rw [h.cur_eq]; exact mt List.length_eq_zero_iff.mp hbs)
    (by rw [h.cur_eq, h.buf_eq, Memory.len_ofBytes])

/-- After its header a stream is at its first record (R113). -/
theorem cursorAt_acceptHeader (s : State) {reserved rest : List Byte} (mode : CrcMode)
    (hr : reserved.length = 12) (hbs : bs = encodeHeader reserved ++ rest) :
    step (s.start bs mode) = .next (s.start bs mode).acceptHeader ∧
      CursorAt bs (encodeHeader reserved).length (s.start bs mode).acceptHeader := by
  have hhdr : (encodeHeader reserved).length = 16 := by rw [encodeHeader_length, hr]
  have hmagic : bs.take 4 = [0x53, 0x4F, 0x46, 0x00] := by rw [hbs]; rfl
  have hlen : ¬ bs.length < 16 := by rw [hbs, List.length_append, hhdr]; omega
  refine ⟨?_, rfl, rfl, hhdr.symm⟩
  rw [step_start, if_pos hmagic, if_neg hlen]

/-- A stream of a header and records, one of them a BITSTREAM record, runs to its end, one step
each, and leaves the slice of that record's payload (R122, R134). -/
theorem run_stream_bitstream (s : State) {reserved : List Byte}
    {before after : List (U16 × List Byte)} (mode : CrcMode) (hr : reserved.length = 12)
    (hp : p.length < 2 ^ 32) (hbefore : ∀ r ∈ before, r.1 ≠ 17 ∧ r.2.length < 2 ^ 32)
    (hafter : ∀ r ∈ after, r.1 ≠ 17 ∧ r.2.length < 2 ^ 32)
    (hpre : pre = encodeHeader reserved ++ recordsBytes before)
    (hbs : bs = pre ++ recBytes 17 p ++ recordsBytes after) :
    ∃ t, Host.Core.run core (before.length + after.length + 3) (s.start bs mode) = .next t ∧
      t.status = .ok ∧ t.buf = .ofBytes bs ∧
      t.res.bs = ⟨pre.length + 6, BitVec.ofNat 32 p.length, true⟩ := by
  have hhdr : encodeHeader reserved ≠ [] := List.cons_ne_nil _ _
  have hne : pre ≠ [] := hpre ▸ List.append_ne_nil_of_left_ne_nil hhdr _
  have hrest : bs = encodeHeader reserved ++ recordsBytes before ++
      (recBytes 17 p ++ recordsBytes after) := by
    rw [hbs, hpre, List.append_assoc]
  obtain ⟨hheader, hat⟩ := cursorAt_acceptHeader s mode hr (hrest.trans (List.append_assoc _ _ _))
  obtain ⟨s2, hrun2, hat, -⟩ := hat.run_records hhdr hbefore hrest
  rw [← hpre] at hat
  have hcur : s2.cur = pre.length := hat.cur_eq
  obtain ⟨u, hexec, hstep, hat⟩ := (hbs ▸ hat).step_record hne hp
  rw [← hbs] at hat
  obtain ⟨t, hrun3, hat, hslice⟩ := hat.run_records
    (List.append_ne_nil_of_left_ne_nil hne _) hafter (by rw [hbs, List.append_nil])
  rw [← hbs] at hat
  have hlast := hat.step_complete (by rw [hbs, hpre]; exact nofun)
  have hwritten : u.res.bs = ⟨pre.length + 6, BitVec.ofNat 32 p.length, true⟩ := by
    cases hexec
    exact hcur ▸ rfl
  have hall : Host.Core.run core (before.length + after.length + 3) (s.start bs mode) =
      .next t.complete := by
    have hcount : before.length + after.length + 3 =
        before.length + (after.length + 1 + 1) + 1 := by omega
    calc Host.Core.run core (before.length + after.length + 3) (s.start bs mode)
      _ = Host.Core.run core (before.length + (after.length + 1 + 1))
          (s.start bs mode).acceptHeader := hcount ▸ run_succ _ hheader
      _ = Host.Core.run core (after.length + 1 + 1) s2 := run_add hrun2
      _ = Host.Core.run core (after.length + 1) (u.advance (BitVec.ofNat 32 p.length)) :=
        run_succ _ hstep
      _ = Host.Core.run core 1 t := run_add hrun3
      _ = .next t.complete := run_one hlast
  exact ⟨t.complete, hall, rfl, hat.buf_eq, hslice.trans hwritten⟩

end

/-- Settles O48: the BITSTREAM record writes its slice at the place where its payload was laid out,
and no record after it touches that. -/
theorem bitstreamRoundTrips : Obligations.BitstreamRoundTrips := by
  intro s reserved p before after mode hr hp hother
  obtain ⟨hbefore, hafter⟩ := List.forall_mem_append.mp hother
  have hbs : encodeHeader reserved ++
        (before ++ (17, p) :: after).flatMap (fun r => recBytes r.1 r.2) =
      encodeHeader reserved ++ recordsBytes before ++ recBytes 17 p ++ recordsBytes after := by
    simp only [recordsBytes, List.flatMap_append, List.flatMap_cons, List.append_assoc]
  rw [hbs]
  obtain ⟨t, hrun, hok, hbuf, hslice⟩ :=
    run_stream_bitstream s mode hr hp hbefore hafter rfl rfl
  have hn : (BitVec.ofNat 32 p.length).toNat = p.length := by
    rw [BitVec.toNat_ofNat, Nat.mod_eq_of_lt hp]
  refine ⟨_, t, rfl, hrun, hok, ?_⟩
  rw [hslice, hbuf]
  refine ⟨rfl, hn, ?_⟩
  have hread := Memory.memRead_middle (encodeHeader reserved ++ recordsBytes before ++
    encodeRecordHeader 17 (BitVec.ofNat 32 p.length)) p (recordsBytes after)
  rw [List.length_append, encodeRecordHeader_length] at hread
  rw [hn, recBytes, recLenBytes, ← List.append_assoc, List.append_assoc _ p]
  exact hread

end Sys2Proof.Machine
end

section
/-! PROOFS. The statements of 60_exceptions.md. First the four ways a busy step can end; then what the
CRC engine's operations keep. -/

namespace Sys2Proof.Machine

/-! ## How a busy step ends -/

/-- A busy step goes on, completes, finds no magic at offset 0, or is cut short at the cursor (R110,
R152, R153, R159). A header that is too short is cut short at offset 0, which is its cursor (R114). -/
theorem step_busy_outcomes {s t : State} (hb : s.status = .busy) (h : step s = .next t) :
    t.status = .busy ∨ t = s.complete ∨ (s.cur = 0 ∧ t = s.raise .formatMismatch) ∨
      t = s.raise (.truncatedRecord s.cur) := by
  rcases parserStep_cases (step_of_busy hb ▸ h) with
    ⟨h0, hsof⟩ | ⟨-, -, hend⟩ | ⟨-, -, hcut⟩ | ⟨-, -, _, _, _, _, _, _, u, -, -, hu, rfl⟩
  · rcases exec_sof_cases hsof with hbad | hshort | ⟨-, rfl⟩
    · exact .inr (.inr (.inl ⟨h0, hbad⟩))
    · exact .inr (.inr (.inr (h0 ▸ hshort)))
    · exact .inl hb
  · exact .inr (.inl hend)
  · exact .inr (.inr (.inr hcut))
  · have hstatus := (exec_record_effect (recordOf_recordLen? _ _) hu).sameControl.status
    exact .inl (hstatus.trans hb)

/-- Settles O38: each error status belongs to one way to end, which is the raise of that error. -/
theorem errorsArePrecise : Obligations.ErrorsArePrecise := by
  intro s t hb h
  rcases step_busy_outcomes hb h with hrun | rfl | ⟨h0, rfl⟩ | rfl
  · rw [hrun]
    exact ⟨nofun, nofun⟩
  · exact ⟨nofun, nofun⟩
  · exact ⟨fun _ => ⟨h0, rfl⟩, nofun⟩
  · exact ⟨nofun, fun _ => rfl⟩

/-- Settles O46: the step after the start raises at its first test (R112, R152), and the start has
emptied the parser's registers and left the engine's (R111). -/
theorem alteredMagicFails : Obligations.AlteredMagicFails := by
  intro s bs mode hbad
  have hstep : step (s.start bs mode) = .next ((s.start bs mode).raise .formatMismatch) := by
    rw [step_start, if_neg hbad]
  exact ⟨s.start bs mode, rfl, hstep, rfl, rfl, rfl, rfl, rfl, rfl⟩

/-! ## The engine beside the parser -/

/-- Agreement on everything but the engine's own registers `TBL`, `TBL_VALID` and `ACC` (R161). -/
structure SameButEngine (s t : State) : Prop extends SameControl s t where
  mode : t.mode = s.mode
  res : t.res = s.res
  pending : t.pending = s.pending
  fresh : t.fresh = s.fresh

theorem sameButEngine_buildTbl (s : State) : SameButEngine s s.buildTbl :=
  ⟨⟨rfl, rfl, rfl, rfl⟩, rfl, rfl, rfl, rfl⟩

theorem sameButEngine_setAcc (a : U16) (s : State) : SameButEngine s (s.setAcc a) :=
  ⟨⟨rfl, rfl, rfl, rfl⟩, rfl, rfl, rfl, rfl⟩

/-- Absorbing data may build the table and writes `ACC` (R94, R98, R99). -/
theorem sameButEngine_absorb (a : U16) (data : List Byte) (s : State) :
    SameButEngine s (s.absorb a data) where
  status := s.absorb_status a data
  cur := s.absorb_cur a data
  errOff := s.absorb_errOff a data
  buf := s.absorb_buf a data
  mode := s.absorb_mode a data
  res := s.absorb_res a data
  pending := s.absorb_pending a data
  fresh := s.absorb_fresh a data

/-- Settles O25: each operation is one of the three updates above. That CRC_BYTE runs on an `ACC`
nothing has written yet is the model's choice (log 11). -/
theorem engineKeepsParserRegisters : Obligations.EngineKeepsParserRegisters := by
  intro s i hi
  have hengine : ∃ t, exec i s = .next t ∧ SameButEngine s t := by
    rcases hi with rfl | ⟨a, rfl⟩ | ⟨b, rfl⟩ | ⟨seed, data, rfl⟩
    · exact ⟨_, rfl, sameButEngine_buildTbl s⟩
    · exact ⟨_, rfl, sameButEngine_setAcc a s⟩
    · exact ⟨_, rfl, sameButEngine_absorb s.acc [b] s⟩
    · exact ⟨_, rfl, sameButEngine_absorb seed data s⟩
  obtain ⟨t, hexec, ⟨hstatus, hcur, herr, hbuf⟩, hmode, hres, hpending, hfresh⟩ := hengine
  exact ⟨t, hexec, hstatus, hcur, herr, hmode, hres, hbuf, hpending, hfresh⟩

end Sys2Proof.Machine
end

section
/-! PROOFS. The statements of 70_reset_and_hazards.md. First that each kind of step completes on a
canonical buffer; then what leaves the engine alone; then the operation RESET. -/

namespace Sys2Proof.Machine

/-! ## Every step completes -/

section
variable {s : State}

/-- The header step completes on a canonical buffer: every branch has a next state (R112 to R114). -/
theorem exec_sof_next (hm : s.buf.wf = true) : ∃ t, exec .sof s = .next t := by
  rw [exec_sof_eq hm]
  split
  · split
    · exact ⟨_, rfl⟩
    · exact ⟨_, rfl⟩
  · exact ⟨_, rfl⟩

/-- No operation of the host raises or reads the buffer, so it completes in every state (R10,
R165). -/
theorem exec_hostOp_next (op : HostOp) (s : State) : ∃ t, exec op.instr s = .next t := by
  cases op with
  | reset | tblInit | crcSeed | crcByte | crcCompute | parse => exact ⟨_, rfl⟩

/-- A fetched record has passed both bounds checks, so its step completes (R116, R118, R182). -/
theorem step_of_fetchRecord_run_next {i : Instr} (hm : s.buf.wf = true) (hb : s.status = .busy)
    (h0 : s.cur ≠ 0) (hr : fetchRecord s = .run i) : ∃ t, step s = .next t := by
  obtain ⟨t0, t1, l0, l1, l2, l3, hread, rfl, hfits⟩ := fetchRecord_run hr
  have hn := recordOf_recordLen? (le16 t0 t1) (le32 l0 l1 l2 l3)
  obtain ⟨u, hu⟩ := exec_record_next hn hm hfits
  rw [step_of_decoded_record hb h0 hread (decodeRecord_six _ _ _ _ _ _ []) hn hfits, hu]
  exact ⟨_, rfl⟩

/-- A step of a running `PARSE` completes on a canonical buffer, wherever the cursor stands (R182). -/
theorem step_busy_next (hm : s.buf.wf = true) (hb : s.status = .busy) : ∃ t, step s = .next t := by
  rcases fetch_cases s with ⟨h0, -⟩ | ⟨h0, hend, -⟩ | ⟨h0, hend, -⟩
  · rw [step_of_header hb h0]
    exact exec_sof_next hm
  · exact ⟨_, step_of_end hb h0 hend⟩
  · cases hr : fetchRecord s with
    | run i => exact step_of_fetchRecord_run_next hm hb h0 hr
    | raised e => exact ⟨_, step_of_fetchRecord_raised hb h0 hend hr⟩
    | finished => exact absurd hr (fetchRecord_not_finished s)
    | outside r => exact absurd hr (fetchRecord_not_outside hm r)

/-- A step without a running `PARSE` completes, whatever the buffer is (R10, R183). -/
theorem step_not_busy_next (hb : s.status ≠ .busy) : ∃ t, step s = .next t := by
  rw [step_of_not_busy hb, hostStep]
  split
  · exact ⟨s, rfl⟩
  · exact exec_hostOp_next _ _

end

/-- Settles O37: the steps of a `PARSE` and of the host complete. -/
theorem stepNeverReadsOutside : Obligations.StepNeverReadsOutside := by
  intro s hm
  by_cases hb : s.status = .busy
  · exact step_busy_next hm hb
  · exact step_not_busy_next hb

/-! ## What leaves the engine alone -/

/-- Agreement on the engine's registers `ACC`, `TBL` and `TBL_VALID` (R20, R180). -/
structure SameEngine (s t : State) : Prop where
  acc : t.acc = s.acc
  tbl : t.tbl = s.tbl
  tblValid : t.tblValid = s.tblValid

section
variable {s t : State}

theorem sameEngine_raise (e : ParseError) (s : State) : SameEngine s (s.raise e) := by
  cases e with
  | formatMismatch | truncatedRecord => exact ⟨rfl, rfl, rfl⟩

/-- The header step does not use the engine (R112 to R114). -/
theorem exec_sof_sameEngine (h : exec .sof s = .next t) : SameEngine s t := by
  rcases exec_sof_cases h with rfl | rfl | ⟨-, rfl⟩
  · exact sameEngine_raise _ s
  · exact sameEngine_raise _ s
  · exact ⟨rfl, rfl, rfl⟩

/-- Of the records only a CRC16 of two payload bytes or more uses the engine (R83, R119, R180). -/
theorem exec_record_sameEngine {i : Instr} {n : U32} (hn : i.recordLen? = some n)
    (hcrc : i.tag? ≠ some Config.tagCrc16 ∨ n.toNat < 2) (h : exec i s = .next t) :
    SameEngine s t := by
  cases i with
  | buildtool | chiptype | name | bitstream | ramM4k | skip => cases h; exact ⟨rfl, rfl, rfl⟩
  | crc16 m =>
    cases hn
    rw [exec_crc16_short (hcrc.resolve_left (absurd rfl))] at h
    cases h
    exact ⟨rfl, rfl, rfl⟩
  | package m =>
    rcases exec_package_cases h with hshort | ⟨hlong, id, hid⟩
    · rw [exec_package_short hshort] at h
      cases h
      exact ⟨rfl, rfl, rfl⟩
    · rw [exec_package_long hlong hid] at h
      cases h
      exact ⟨rfl, rfl, rfl⟩
  | sof | reset | tblInit | crcSeed | crcByte | crcCompute | parse | crcCheck => cases hn

end

/-- Settles O40: the header step, the end and an error leave the engine alone, and so does every
record the hypothesis admits. -/
theorem onlyCrc16TouchesTheEngine : Obligations.OnlyCrc16TouchesTheEngine := by
  intro s t hb h hrecord
  have hsame : SameEngine s t := by
    rcases parserStep_cases (step_of_busy hb ▸ h) with
      ⟨-, hsof⟩ | ⟨-, -, rfl⟩ | ⟨-, -, rfl⟩ |
      ⟨h0, -, t0, t1, l0, l1, l2, l3, u, hread, -, hu, rfl⟩
    · exact exec_sof_sameEngine hsof
    · exact ⟨rfl, rfl, rfl⟩
    · exact sameEngine_raise _ s
    · have hcrc : (recordOf (le16 t0 t1) (le32 l0 l1 l2 l3)).tag? ≠ some Config.tagCrc16 ∨
          (le32 l0 l1 l2 l3).toNat < 2 := by
        rw [recordOf_tag?, ne_eq, Option.some_inj]
        exact hrecord h0 _ _ _ _ _ _ hread
      exact { exec_record_sameEngine (recordOf_recordLen? _ _) hcrc hu with }
  exact ⟨hsame.acc, hsame.tbl, hsame.tblValid⟩

/-! ## RESET -/

/-- Every slice of the empty result is absent (R26). -/
theorem eq_absent_of_mem_empty_slices {x : Slice} (h : x ∈ Result.empty.slices) : x = .absent :=
  List.eq_of_mem_replicate (n := 5) h

/-- Settles O17: RESET leaves the empty result, whose slices are absent (R26); the other named
registers are what it writes. -/
theorem resetOperationLeavesResetValues : Obligations.ResetOperationLeavesResetValues := by
  intro s
  have hslices : ∀ x ∈ s.applyReset.res.slices, x.off = 0 ∧ x.len = 0 ∧ x.seen = false := by
    intro x hx
    rw [State.applyReset_res] at hx
    rw [eq_absent_of_mem_empty_slices hx]
    exact ⟨rfl, rfl, rfl⟩
  exact ⟨s.applyReset, rfl, rfl, rfl, rfl, rfl, hslices, rfl, rfl, rfl, rfl, rfl, rfl, rfl, rfl⟩

end Sys2Proof.Machine
end
